-- ==== Sys2Proof/Word.lean ====
section
/-! DEFINITION. The word types of the core. Widths are the fixed parameters of spec/00_scope.md rule R8. -/

namespace Sys2Proof

/-- One transaction word, WORD_W = 40 bits, bit 39 first when written (R8, R46, R59). -/
abbrev TWord := BitVec 40

/-- A timestamp or a duration in ticks, TS_W = 32 bits, unsigned (R8). -/
abbrev Tick := BitVec 32

/-- One stored pulse (PULSE_W = 8), one frame byte, one register-space datum (DATA_W = 8) or address (ADDR_W = 8), R8. -/
abbrev Byte := BitVec 8

/-- A Pulse Buffer index: the 7-bit width of the cursor and of viol_index (CURSOR_W, R8, R18). -/
abbrev Index := BitVec 7

/-- The Pulse Buffer: CAP = N_HS + 2 × N_BITS = 3 + 80 = 83 entries (R8, R26). -/
abbrev PulseBuffer := Vector Byte 83

/-- A frame: N_BYTES = 5 bytes b0 to b4 (R8, R115). -/
abbrev Frame := Vector Byte 5

end Sys2Proof
end

