-- ==== Sys2Proof/Config.lean ====
section
/-! DEFINITION. The configuration of an instance (spec/00_scope.md rules R9 to R11), the agents (R6) and the one free
value of the model: the merge order of the two agents' streams (R7). -/

namespace Sys2Proof

/-- An inclusive band `[lo, hi]` of durations in ticks (R9, R13). -/
structure Band where
  lo : Nat
  hi : Nat
  deriving DecidableEq, Repr

/-- ERR_POLICY: what the Edge Sampler does after an out-of-range duration (R9, R88). -/
inductive ErrPolicy where
  /-- keep measuring from the old reference (the default) -/
  | continue
  /-- ignore every EDGE after the first error -/
  | abort
  deriving DecidableEq, Repr

/-- The configurable parameters of R9. `capLo` and `capHi` are exclusive bounds, every band is inclusive at both ends. -/
structure Config where
  /-- CAP_LO -/
  capLo : Nat
  /-- CAP_HI -/
  capHi : Nat
  /-- HS0_LO, HS0_HI: pulse[0] -/
  hs0 : Band
  /-- HS1_LO, HS1_HI: pulse[1] and pulse[2] -/
  hs1 : Band
  /-- HDR_LO, HDR_HI: each payload header pulse -/
  hdr : Band
  /-- VB0_LO, VB0_HI: the validator's short band -/
  vb0 : Band
  /-- VB1_LO, VB1_HI: the validator's long band -/
  vb1 : Band
  /-- DB0_LO, DB0_HI: the Bit Decoder's bit-0 band -/
  db0 : Band
  /-- DB1_LO, DB1_HI: the Bit Decoder's bit-1 band -/
  db1 : Band
  /-- ERR_POLICY -/
  errPolicy : ErrPolicy
  deriving DecidableEq, Repr

/-- The default column of R9: "the configuration this spec calls the core". -/
def Config.default : Config where
  capLo := 10
  capHi := 100
  hs0 := ⟨10, 50⟩
  hs1 := ⟨65, 95⟩
  hdr := ⟨40, 60⟩
  vb0 := ⟨15, 35⟩
  vb1 := ⟨55, 85⟩
  db0 := ⟨15, 35⟩
  db1 := ⟨55, 85⟩
  errPolicy := .continue

/-- The legacy configuration: the default with the Bit Decoder's bit-1 band at 60–80 (R9, C1). -/
def Config.legacy : Config := { Config.default with db1 := ⟨60, 80⟩ }

/-- The default with ERR_POLICY = ABORT (the *abort* configuration of spec/95_test_vectors.md). -/
def Config.aborting : Config := { Config.default with errPolicy := .abort }

/-- The two agents that issue transactions (R6). The core itself issues none. -/
inductive Agent where
  /-- the GPIO substrate that watches the sensor line; issues EDGE -/
  | line
  /-- the orchestrator; issues every other transaction -/
  | host
  deriving DecidableEq, Repr, Inhabited

/-- FREE VALUE (R7, R55, I11: "The merge order is not fixed"). Which agent's word is taken next when both have one
pending and the State's own `merge` input is used up; the argument is the number of words still pending, which falls with every
delivery, so no two deliveries of a run share a choice. No body: no proof can see it. DESIGN CHOICE, safe, log entry 3. -/
opaque Config.freeAgent : Nat → Agent

/-- The host's own parameters (R11). The core reads none of them. Times are in ticks, one tick taken as one microsecond
(glossary R17, log entry 12). ARM_POINT and RETRY_PERIOD are OPEN: they have no default. The 5000 of WINDOW_TICKS is R11's own
default; the defaults of SETTLE, WAKE_LOW and WAKE_HIGH are the model's: R11 gives the first two as lower bounds only and the third
as "about 30 µs, no tolerance given" (DESIGN CHOICE, log entry 15). -/
structure HostParams where
  /-- WINDOW_TICKS: the length of the wait before CLOSE; when it starts is log entry 19 -/
  windowTicks : Nat := 5000
  /-- SETTLE, at least 1 s; the default is that bound (DESIGN CHOICE, log entry 15) -/
  settle : Nat := 1000000
  /-- WAKE_LOW, at least 18 ms; the default is that bound (DESIGN CHOICE, log entry 15) -/
  wakeLow : Nat := 18000
  /-- WAKE_HIGH, about 30 µs, no tolerance given; the default is 30 exactly (DESIGN CHOICE, log entry 15) -/
  wakeHigh : Nat := 30
  /-- ARM_POINT: how many handshake actions stand before ARM (OPEN, D24) -/
  armPoint : Nat
  /-- RETRY_PERIOD (OPEN, D30) -/
  retryPeriod : Nat
  deriving DecidableEq, Repr

end Sys2Proof
end

