-- ==== Sys2Proof/Syntax.lean ====
section
/-! DEFINITION. The transactions of the core: its instruction set (spec/30_encoding.md rules R61 to R63). -/

namespace Sys2Proof

/-- One constructor per row of spec/opcode_table.json, operands as R62 assembles them. -/
inductive Instr where
  /-- NOP, OP 0x0 -/
  | nop
  /-- ARM, OP 0x1 -/
  | arm
  /-- CLOSE, OP 0x2 -/
  | close
  /-- DECODE, OP 0x3 -/
  | decode
  /-- EDGE, OP 0x4: TS = T[31:0], LV = T[32] -/
  | edge (ts : Tick) (lv : BitVec 1)
  /-- READ, OP 0x5: ADDR = T[7:0] -/
  | read (addr : Byte)
  /-- RESET, OP 0x6 -/
  | reset
  deriving DecidableEq, Repr

/-- The "issued by" column of R63. The core never checks it (R67), and no field of State is restricted by it (log
entry 18). -/
def Instr.issuer : Instr → Agent
  | .nop => .host
  | .arm => .host
  | .close => .host
  | .decode => .host
  | .edge _ _ => .line
  | .read _ => .host
  | .reset => .host

end Sys2Proof
end

