-- ==== Sys2Proof/WellFormed.lean ====
section
/-! DEFINITION. Well-formedness: of a transaction, and of a configuration (spec/00_scope.md rule R10). -/

namespace Sys2Proof

/-- Every operand's width is in its type (TS 32 bits, LV 1 bit, ADDR 8 bits, R62), and R62 and R47 make every value of each
width legal, so every term of `Instr` is well formed; words that are no instruction are the decoder's to reject. -/
def Instr.wf : Instr → Bool
  | .nop => true
  | .arm => true
  | .close => true
  | .decode => true
  | .edge _ _ => true
  | .read _ => true
  | .reset => true

/-- R10 (b): LO ≤ HI ≤ 255. -/
def Band.wf (b : Band) : Bool := b.lo ≤ b.hi && b.hi ≤ 255

/-- R10: (a) CAP_LO < CAP_HI ≤ 256; (b) every band is ordered and fits a byte; (c) DB0_HI < DB1_LO; (d) ERR_POLICY is one
of its two values, which its type says. -/
def Config.wf (c : Config) : Bool :=
  c.capLo < c.capHi && c.capHi ≤ 256
    && c.hs0.wf && c.hs1.wf && c.hdr.wf && c.vb0.wf && c.vb1.wf && c.db0.wf && c.db1.wf
    && c.db0.hi < c.db1.lo

/-- The host parameters keep the two lower bounds R11 gives: SETTLE at least 1 s, WAKE_LOW at least 18 ms, in ticks of one
microsecond (log entry 12). WAKE_HIGH has no tolerance in the spec and so no bound here (log entry 15). -/
def HostParams.wf (p : HostParams) : Bool := 1000000 ≤ p.settle && 18000 ≤ p.wakeLow

end Sys2Proof
end

