-- ==== Sys2Proof/Decode.lean ====
section
/-! DEFINITION. The decoder of transaction words, total on every 40-bit word (spec/30_encoding.md rules R59 to R66), the
encoder, and the opcode table of R63 as data. -/

namespace Sys2Proof

/-- OP = T[39:36] (R60). -/
def opField (t : TWord) : BitVec 4 := t.extractLsb' 36 4

/-- T[35:0], must be 0 in format C (R61). -/
def zeroFieldC (t : TWord) : BitVec 36 := t.extractLsb' 0 36

/-- T[35:33], must be 0 in format E (R61). -/
def zeroFieldE (t : TWord) : BitVec 3 := t.extractLsb' 33 3

/-- T[35:8], must be 0 in format R (R61). -/
def zeroFieldR (t : TWord) : BitVec 28 := t.extractLsb' 8 28

/-- LV = T[32] (R62). -/
def lvField (t : TWord) : BitVec 1 := t.extractLsb' 32 1

/-- TS = T[31:0] (R62). -/
def tsField (t : TWord) : Tick := t.extractLsb' 0 32

/-- ADDR = T[7:0] (R62). -/
def addrField (t : TWord) : Byte := t.extractLsb' 0 8

/-- The two ways a word is illegal (R65). -/
inductive Illegal where
  /-- OP is 0x7 to 0xF -/
  | reservedOp
  /-- a defined OP with a non-zero bit in a must-be-zero field -/
  | nonzeroField
  deriving DecidableEq, Repr

/-- What R64's decoder returns. -/
inductive Decoded where
  /-- one of the seven transactions -/
  | legal (i : Instr)
  /-- ILLEGAL, with the reason -/
  | illegal (why : Illegal)
  deriving DecidableEq, Repr

/-- R64, line by line; the last line names which of R65's two reasons makes the word illegal. -/
def decode (t : TWord) : Decoded :=
  if opField t = 0x0#4 ∧ zeroFieldC t = 0#36 then .legal .nop
  else if opField t = 0x1#4 ∧ zeroFieldC t = 0#36 then .legal .arm
  else if opField t = 0x2#4 ∧ zeroFieldC t = 0#36 then .legal .close
  else if opField t = 0x3#4 ∧ zeroFieldC t = 0#36 then .legal .decode
  else if opField t = 0x4#4 ∧ zeroFieldE t = 0#3 then .legal (.edge (tsField t) (lvField t))
  else if opField t = 0x5#4 ∧ zeroFieldR t = 0#28 then .legal (.read (addrField t))
  else if opField t = 0x6#4 ∧ zeroFieldC t = 0#36 then .legal .reset
  else if opField t ≤ 0x6#4 then .illegal .nonzeroField
  else .illegal .reservedOp

/-- Format C (R61): OP and 36 zero bits. -/
def formatC (op : BitVec 4) : TWord := op ++ 0#36

/-- Format E (R61): OP 0x4, three zero bits, LV, TS. -/
def formatE (lv : BitVec 1) (ts : Tick) : TWord := 0x4#4 ++ 0#3 ++ lv ++ ts

/-- Format R (R61): OP 0x5, 28 zero bits, ADDR. -/
def formatR (addr : Byte) : TWord := 0x5#4 ++ 0#28 ++ addr

/-- The word of a transaction (R61, R63). -/
def encode : Instr → TWord
  | .nop => formatC 0x0#4
  | .arm => formatC 0x1#4
  | .close => formatC 0x2#4
  | .decode => formatC 0x3#4
  | .edge ts lv => formatE lv ts
  | .read addr => formatR addr
  | .reset => formatC 0x6#4

/-- A row of the opcode table: mnemonic, match and mask (R63). -/
structure OpcodeRow where
  mnemonic : String
  matchBits : TWord
  mask : TWord
  deriving DecidableEq, Repr

/-- The rows of R63 (spec/opcode_table.json), in its order. -/
def opcodeTable : List OpcodeRow :=
  [ ⟨"NOP", 0x0000000000#40, 0xFFFFFFFFFF#40⟩,
    ⟨"ARM", 0x1000000000#40, 0xFFFFFFFFFF#40⟩,
    ⟨"CLOSE", 0x2000000000#40, 0xFFFFFFFFFF#40⟩,
    ⟨"DECODE", 0x3000000000#40, 0xFFFFFFFFFF#40⟩,
    ⟨"EDGE", 0x4000000000#40, 0xFE00000000#40⟩,
    ⟨"READ", 0x5000000000#40, 0xFFFFFFFF00#40⟩,
    ⟨"RESET", 0x6000000000#40, 0xFFFFFFFFFF#40⟩ ]

/-- "A word W selects a row when `W & mask == match`" (R63). -/
def OpcodeRow.selectedBy (r : OpcodeRow) (w : TWord) : Bool := w &&& r.mask == r.matchBits

/-- The mnemonic of a transaction (R63). -/
def Instr.mnemonic : Instr → String
  | .nop => "NOP"
  | .arm => "ARM"
  | .close => "CLOSE"
  | .decode => "DECODE"
  | .edge _ _ => "EDGE"
  | .read _ => "READ"
  | .reset => "RESET"

/-- The decoder as the opcode table numbers a word: bit 0 of `w` is bit 0 of the 40-bit word T. Every row has 40 bits
(R59); a number that does not fit in them is no transaction word (log entry 9). -/
def decodeTableWord (nbits w : Nat) : Option Instr :=
  if nbits ≤ 40 ∧ w < 2 ^ 40 then
    match decode (BitVec.ofNat 40 w) with
    | .legal i => some i
    | .illegal _ => none
  else none

end Sys2Proof
end

