-- ==== Sys2Proof/Machine/State.lean ====
section
/-! DEFINITION. The state: the core's record exactly as spec/10_state.md rule R18 lists it, and around it what the spec
keeps beside the state (the configuration, the two agents' transaction streams, the output: R6, R7, R9, R15, R19). -/

namespace Sys2Proof.Machine

/-- The core state S of R18: "exactly the fields below and nothing else", each at the width given there. -/
structure CoreState where
  /-- Pulse Buffer, entry i = pulse[i] (R26) -/
  buf : PulseBuffer
  /-- next write index (R21) -/
  cursor : Index
  /-- R22 -/
  running : Bool
  /-- R23 -/
  finished : Bool
  /-- R24 -/
  error : Bool
  /-- reference timestamp (R27) -/
  ref : Tick
  /-- the sampler is the registered consumer of edge events (R28) -/
  attached : Bool
  /-- outcome of the last DECODE (R29) -/
  resCode : BitVec 3
  /-- pulse index of the reported violation (R30) -/
  violIndex : Index
  /-- measured duration at violIndex (R30) -/
  violMeas : Byte
  /-- b0 to b4 of the last successful DECODE (R30) -/
  frame : Frame
  /-- a host protocol violation was latched (R32) -/
  faulted : Bool
  /-- which violation (R32) -/
  faultCause : BitVec 2
  deriving DecidableEq, Repr

/-- The machine: the core and what acts on it. -/
structure State where
  /-- the core state S (R18) -/
  core : CoreState
  /-- the configuration, fixed for a run (R9, R19; log entry 1) -/
  cfg : Config
  /-- the line's words still to be delivered, in issue order (R6, R7; log entry 3). R67: "The line issues only EDGE words"; the field
  admits any words, and the core performs each as it would the host's (DESIGN CHOICE, log entry 18) -/
  line : List TWord
  /-- the host's words still to be delivered, in issue order (R6, R7; log entry 3) -/
  host : List TWord
  /-- the merge order still to come: which agent's word is taken next (R7, R55; log entry 3) -/
  merge : List Agent
  /-- the output of the last transaction, none or one byte (R15; log entry 5) -/
  out : Option Byte
  deriving DecidableEq, Repr

/-- No constructor: nothing stops the core. R15: the step "is total: every 40-bit word has a result"; the spec's own faults
(R131) are latched in the state, not stops (log entry 10). Safe: there is no stop to hide behind. -/
inductive Fault where
  deriving DecidableEq, Repr

/-- Why a step has no meaning. -/
inductive Refusal where
  /-- Raised by an arm of `exec` whose instruction has no meaning yet; no arm is left so. Safe. -/
  | notModelled (mnemonic : String)
  /-- Raised by `step` when the configuration breaks R10: "A model refuses an ill-formed configuration; the core's rules give
  it no meaning" (I6). Safe. -/
  | illFormedConfig
  deriving DecidableEq, Repr

/-- Every field of R18 at its reset value (R39). -/
def CoreState.reset : CoreState where
  buf := Vector.replicate 83 0#8
  cursor := 0#7
  running := false
  finished := false
  error := false
  ref := 0#32
  attached := false
  resCode := 0#3
  violIndex := 0#7
  violMeas := 0#8
  frame := Vector.replicate 5 0#8
  faulted := false
  faultCause := 0#2

/-- Power-on (R38, R145): the core at its reset values, under the default configuration (R9), no transaction delivered yet and
none pending. The fields beside the core are DESIGN CHOICE, log entries 1, 3 and 5. -/
def State.reset : State where
  core := CoreState.reset
  cfg := Config.default
  line := []
  host := []
  merge := []
  out := none

end Sys2Proof.Machine
end

