-- ==== Sys2Proof/Machine/Operands.lean ====
section
/-! DEFINITION. How operand and buffer values are measured and compared: bands and durations (spec/00_scope.md R13,
spec/41_edge_sampler.md R90, R91). -/

namespace Sys2Proof

/-- `v in [lo, hi]` means lo ≤ v ≤ hi (R13). -/
def Band.contains (b : Band) (v : Byte) : Bool := b.lo ≤ v.toNat && v.toNat ≤ b.hi

namespace Machine

/-- `d = (ts − ref) mod 2^32`, the forward distance from ref to ts (R90). -/
def duration (ts ref : Tick) : Tick := ts - ref

/-- The capture band, exclusive at both ends: CAP_LO < d < CAP_HI (R91). -/
def inCaptureBand (cfg : Config) (d : Tick) : Bool := cfg.capLo < d.toNat && d.toNat < cfg.capHi

/-- `trunc_8(d)`, the stored form of a duration (R12, R85, R95). -/
def storedPulse (d : Tick) : Byte := d.setWidth 8

end Machine
end Sys2Proof
end

