-- ==== Sys2Proof/Machine/Flags.lean ====
section
/-! DEFINITION. The read-only registers as views of the state's flags and fields (spec/10_state.md rules R31, R33 to R35).
In a register a flag is 0 for F and 1 for T (R13); every reserved bit reads 0 (R37). -/

namespace Sys2Proof.Machine

/-- STATUS = {000, faulted, attached, error, finished, running} (R31). -/
def CoreState.statusByte (c : CoreState) : Byte :=
  0#3 ++ BitVec.ofBool c.faulted ++ BitVec.ofBool c.attached ++ BitVec.ofBool c.error ++ BitVec.ofBool c.finished
    ++ BitVec.ofBool c.running

/-- CURSOR = {0, cursor[6:0]} (R33). -/
def CoreState.cursorByte (c : CoreState) : Byte := 0#1 ++ c.cursor

/-- FAULT_CAUSE = {000000, fault_cause[1:0]} (R34). -/
def CoreState.faultCauseByte (c : CoreState) : Byte := 0#6 ++ c.faultCause

/-- RES_CODE = {00000, res_code[2:0]} (R35). -/
def CoreState.resCodeByte (c : CoreState) : Byte := 0#5 ++ c.resCode

/-- VIOL_INDEX = {0, viol_index[6:0]} (R35). -/
def CoreState.violIndexByte (c : CoreState) : Byte := 0#1 ++ c.violIndex

end Sys2Proof.Machine
end

