-- ==== Sys2Proof/Machine/Ops.lean ====
section
/-! DEFINITION. The operations the transactions share: reading the register space (spec/20_memory.md R43), raising a fault and
the fault gate (spec/60_exceptions.md R132, R133, spec/40_control.md R71), clearing the capture and the results (R75, R76), and
delivering the next word of the two streams (spec/00_scope.md R7). -/

namespace Sys2Proof.Machine

/-- `MemRead(addr, 1)`, R43 line by line: a pure function of the core state and the address. -/
def memRead (c : CoreState) (addr : Byte) : Byte :=
  if h : addr.toNat ≤ 0x52 then c.buf[addr.toNat]
  else if addr = 0x60#8 then c.statusByte
  else if addr = 0x61#8 then c.cursorByte
  else if addr = 0x62#8 then c.faultCauseByte
  else if addr = 0x70#8 then c.resCodeByte
  else if addr = 0x71#8 then c.violIndexByte
  else if addr = 0x72#8 then c.violMeas
  else if h : 0x73 ≤ addr.toNat ∧ addr.toNat ≤ 0x77 then c.frame[addr.toNat - 0x73]
  else 0x00#8

/-- The fault causes of R131, without NONE. -/
inductive FaultCause where
  /-- any word whose decode is ILLEGAL -/
  | illegalOp
  /-- ARM with attached = T -/
  | armWhileAttached
  /-- DECODE with attached = T -/
  | decodeWhileAttached
  deriving DecidableEq, Repr

/-- The fault_cause code of R131. -/
def FaultCause.code : FaultCause → BitVec 2
  | .illegalOp => 1#2
  | .armWhileAttached => 2#2
  | .decodeWhileAttached => 3#2

/-- `raise Fault(cause)` (R132): the fault entry. Faults are precise: nothing but the two fault fields changes. -/
def CoreState.raiseFault (cause : FaultCause) (c : CoreState) : CoreState :=
  { c with faulted := true, faultCause := cause.code }

/-- The CaptureState "reset to empty/false/false/false", and ref to 0 (R76, R146). -/
def CoreState.clearCapture (c : CoreState) : CoreState :=
  { c with buf := Vector.replicate 83 0#8, cursor := 0#7, running := false, finished := false, error := false, ref := 0#32 }

/-- The result registers cleared (R76, R75). -/
def CoreState.clearResults (c : CoreState) : CoreState :=
  { c with resCode := 0#3, violIndex := 0#7, violMeas := 0#8, frame := Vector.replicate 5 0#8 }

/-- A transaction with no output: the core changes by `f`, out ← none (R71). -/
def State.onCore (s : State) (f : CoreState → CoreState) : State :=
  { s with core := f s.core, out := none }

/-- A transaction that the fault gate stops (R71, R133): performed when faulted = F, ignored when faulted = T. -/
def gated (f : CoreState → CoreState) (s : State) : Host.Outcome State Fault Refusal :=
  .next (s.onCore fun c => if c.faulted then c else f c)

/-- An illegal word (R65, R71): it raises ILLEGAL_OP when faulted = F and is ignored when faulted = T. -/
def execIllegal (s : State) : Host.Outcome State Fault Refusal :=
  gated (CoreState.raiseFault .illegalOp) s

/-- The agent whose turn it is when both have a word pending: the State's merge order, and where that is used up the free
value (R7, R55; log entry 3). -/
def State.turn (s : State) : Agent :=
  match s.merge with
  | a :: _ => a
  | [] => Config.freeAgent (s.line.length + s.host.length)

/-- The line's next word is delivered: `ls` is what it still has to deliver. -/
def State.tookLine (s : State) (ls : List TWord) : State := { s with line := ls, merge := s.merge.tail }

/-- The host's next word is delivered: `hs` is what it still has to deliver. -/
def State.tookHost (s : State) (hs : List TWord) : State := { s with host := hs, merge := s.merge.tail }

/-- The next transaction of the merged order and the state with it consumed (R7, R57: "each transaction word is consumed once,
when it is delivered"). Each agent's own words keep their issue order. None when no transaction is pending. -/
def nextWord (s : State) : Option (TWord × State) :=
  match s.line, s.host with
  | [], [] => none
  | l :: ls, [] => some (l, s.tookLine ls)
  | [], h :: hs => some (h, s.tookHost hs)
  | l :: ls, h :: hs =>
    match s.turn with
    | .line => some (l, s.tookLine ls)
    | .host => some (h, s.tookHost hs)

end Sys2Proof.Machine
end

