-- ==== Sys2Proof/Machine/Control.lean ====
section
/-! DEFINITION. The control transactions NOP, RESET, ARM, CLOSE and READ (spec/40_control.md rules R74 to R78). -/

namespace Sys2Proof.Machine

/-- NOP does nothing (R74). -/
def execNop (s : State) : Host.Outcome State Fault Refusal :=
  gated (fun c => c) s

/-- RESET puts every field of R18 into its reset value; it passes the fault gate (R75, R71). -/
def execReset (s : State) : Host.Outcome State Fault Refusal :=
  .next (s.onCore fun _ => CoreState.reset)

/-- What ARM does to a detached core (R76): CaptureState and results cleared, the sampler attached. -/
def CoreState.arm (c : CoreState) : CoreState := { c.clearCapture.clearResults with attached := true }

/-- ARM (R76): ARM_WHILE_ATTACHED when a capture is attached, else it starts a capture. -/
def execArm (s : State) : Host.Outcome State Fault Refusal :=
  gated (fun c => if c.attached then c.raiseFault .armWhileAttached else c.arm) s

/-- CLOSE detaches the Edge Sampler and changes nothing else (R77). -/
def execClose (s : State) : Host.Outcome State Fault Refusal :=
  gated (fun c => { c with attached := false }) s

/-- READ outputs one byte of the register space and changes no state; it passes the fault gate (R78, R71). -/
def execRead (addr : Byte) (s : State) : Host.Outcome State Fault Refusal :=
  .next { s with out := some (memRead s.core addr) }

end Sys2Proof.Machine
end

