-- ==== Sys2Proof/Machine/BitDecoder.lean ====
section
/-! DEFINITION. The Bit Decoder (spec/43_bit_decoder.md rules R106 to R110). -/

namespace Sys2Proof.Machine

/-- What a data pulse decodes to (R106). -/
inductive DecodedBit where
  | zero
  | one
  | invalid
  deriving DecidableEq, Repr

/-- BitDecode (R106): never a silent default (R108). -/
def bitDecode (cfg : Config) (v : Byte) : DecodedBit :=
  if cfg.db0.contains v then .zero
  else if cfg.db1.contains v then .one
  else .invalid

end Sys2Proof.Machine
end

