-- ==== Sys2Proof/Machine/FrameAssembler.lean ====
section
/-! DEFINITION. The Frame Assembler (spec/44_frame_assembler.md rules R111 to R117). -/

namespace Sys2Proof.Machine

/-- BYTES(b0..b4), or DI(index, measured) (R111). -/
inductive Assembled where
  | bytes (b : Frame)
  | di (index : Index) (measured : Byte)
  deriving DecidableEq, Repr

/-- Payload bit j of a frame: bit 7 − (j mod 8) of byte j div 8 (R45, R113). -/
def payloadBit (b : Frame) (j : Fin 40) : Bool := b[j.val / 8].getLsbD (7 - j.val % 8)

/-- The shift-and-or of R111 on byte j div 8: `b <- trunc_8((b << 1) | r)`. -/
def pushBit (b : Frame) (j : Fin 40) (r : Bool) : Frame :=
  b.set (j.val / 8) ((b[j.val / 8] <<< 1) ||| (BitVec.ofBool r).setWidth 8)

/-- The loop of R111 over the payload bits still to come, in arrival order; payload bit j's data pulse has index 4 + 2j. -/
def assembleFrom (cfg : Config) (buf : PulseBuffer) : List (Fin 40) → Frame → Assembled
  | [], b => .bytes b
  | j :: js, b =>
    match bitDecode cfg buf[4 + 2 * j.val] with
    | .zero => assembleFrom cfg buf js (pushBit b j false)
    | .one => assembleFrom cfg buf js (pushBit b j true)
    | .invalid => .di (BitVec.ofNat 7 (4 + 2 * j.val)) buf[4 + 2 * j.val]

/-- Assemble (R111): the 40 data pulses in order; the first invalid one makes it fail (R116). -/
def assemble (cfg : Config) (buf : PulseBuffer) : Assembled :=
  assembleFrom cfg buf (List.finRange 40) (Vector.replicate 5 0#8)

end Sys2Proof.Machine
end

