-- ==== Sys2Proof/Machine/FrameValidator.lean ====
section
/-! DEFINITION. The Frame Validator (spec/42_frame_validator.md rules R97 to R105). -/

namespace Sys2Proof.Machine

/-- Whether pulse i with duration v is in the band for its position (R97; R98, R99, R100, R101). -/
def pulseOk (cfg : Config) (i : Nat) (v : Byte) : Bool :=
  if i = 0 then cfg.hs0.contains v
  else if i = 1 ∨ i = 2 then cfg.hs1.contains v
  else if i % 2 = 1 then cfg.hdr.contains v
  else cfg.vb0.contains v || cfg.vb1.contains v

/-- PASS, or SV(index, measured) (R97). -/
inductive Verdict where
  | pass
  | sv (index : Index) (measured : Byte)
  deriving DecidableEq, Repr

/-- Validate (R97): the pulses in ascending index order, the first failure reported (R102). -/
def validate (cfg : Config) (buf : PulseBuffer) : Verdict :=
  match (List.finRange 83).find? fun i => !pulseOk cfg i.val buf[i.val] with
  | none => .pass
  | some i => .sv (BitVec.ofNat 7 i.val) buf[i.val]

end Sys2Proof.Machine
end

