-- ==== Sys2Proof/Machine/DecodeCapture.lean ====
section
/-! DEFINITION. The Checksum Validator and the transaction DECODE (spec/45_checksum_decode.md rules R118 to R127,
spec/60_exceptions.md rule R129). -/

namespace Sys2Proof.Machine

/-- Checksum (R118, R119): the unreduced sum, then modulo 256. -/
def checksumOk (b : Frame) : Bool :=
  (b[0].toNat + b[1].toNat + b[2].toNat + b[3].toNat) % 256 = b[4].toNat

/-- The outcomes DECODE reports (R122, R129), with the values each records. -/
inductive Reading where
  | ok (b : Frame)
  | timeout
  | captureError
  | structViolation (index : Index) (measured : Byte)
  | decodeInvalid (index : Index) (measured : Byte)
  | checksumMismatch
  deriving DecidableEq, Repr

/-- The outcome of a closed capture, in the priority order of R122. -/
def evaluate (cfg : Config) (c : CoreState) : Reading :=
  if c.running ∨ !c.finished then .timeout
  else if c.error then .captureError
  else match validate cfg c.buf with
    | .sv i m => .structViolation i m
    | .pass => match assemble cfg c.buf with
      | .di i m => .decodeInvalid i m
      | .bytes b => if checksumOk b then .ok b else .checksumMismatch

/-- The res_code of an outcome (R29, R123). -/
def Reading.code : Reading → BitVec 3
  | .ok _ => 1#3
  | .timeout => 2#3
  | .captureError => 3#3
  | .structViolation _ _ => 4#3
  | .decodeInvalid _ _ => 5#3
  | .checksumMismatch => 6#3

/-- The viol_index of an outcome, 0 where it reports no pulse (R123). -/
def Reading.index : Reading → Index
  | .ok _ => 0#7
  | .timeout => 0#7
  | .captureError => 0#7
  | .structViolation i _ => i
  | .decodeInvalid i _ => i
  | .checksumMismatch => 0#7

/-- The viol_meas of an outcome, 0 where it reports no pulse (R123). -/
def Reading.measured : Reading → Byte
  | .ok _ => 0#8
  | .timeout => 0#8
  | .captureError => 0#8
  | .structViolation _ m => m
  | .decodeInvalid _ m => m
  | .checksumMismatch => 0#8

/-- The frame of an outcome: b0 to b4 if OK, else 0 (R123). -/
def Reading.bytes : Reading → Frame
  | .ok b => b
  | .timeout => Vector.replicate 5 0#8
  | .captureError => Vector.replicate 5 0#8
  | .structViolation _ _ => Vector.replicate 5 0#8
  | .decodeInvalid _ _ => Vector.replicate 5 0#8
  | .checksumMismatch => Vector.replicate 5 0#8

/-- WriteResult (R123): the result registers, in one step. -/
def CoreState.writeResult (o : Reading) (c : CoreState) : CoreState :=
  { c with resCode := o.code, violIndex := o.index, violMeas := o.measured, frame := o.bytes }

/-- The outcome as the result registers carry it (R127, R29); none for NONE (0) and for the reserved
code 7, which no rule writes (I17). -/
def CoreState.result (c : CoreState) : Option Reading :=
  if c.resCode = 1#3 then some (.ok c.frame)
  else if c.resCode = 2#3 then some .timeout
  else if c.resCode = 3#3 then some .captureError
  else if c.resCode = 4#3 then some (.structViolation c.violIndex c.violMeas)
  else if c.resCode = 5#3 then some (.decodeInvalid c.violIndex c.violMeas)
  else if c.resCode = 6#3 then some .checksumMismatch
  else none

/-- DECODE (R120): DECODE_WHILE_ATTACHED while the sampler is attached (R121), else the outcome is written. -/
def execDecode (s : State) : Host.Outcome State Fault Refusal :=
  gated (fun c => if c.attached then c.raiseFault .decodeWhileAttached else c.writeResult (evaluate s.cfg c)) s

end Sys2Proof.Machine
end

