-- ==== Sys2Proof/Machine/EdgeSampler.lean ====
section
/-! DEFINITION. The Edge Sampler and its transaction EDGE (spec/41_edge_sampler.md rules R85 to R96). -/

namespace Sys2Proof.Machine

/-- The accepted edge (R91, R92): append trunc_8(d), advance the cursor, move the reference, and on the 83rd append stop
running and finish. With cursor at or above 83, which no run reaches while finished = F (R25), the store falls outside the
buffer and writes nothing (DESIGN CHOICE, log entry 6). -/
def CoreState.appendPulse (ts d : Tick) (c : CoreState) : CoreState :=
  { c with
    buf := c.buf.setIfInBounds c.cursor.toNat (storedPulse d)
    cursor := c.cursor + 1#7
    ref := ts
    running := if c.cursor + 1#7 = 83#7 then false else c.running
    finished := if c.cursor + 1#7 = 83#7 then true else c.finished }

/-- EDGE(ts, lv) on the core, R85 line by line. -/
def CoreState.sampleEdge (cfg : Config) (ts : Tick) (c : CoreState) : CoreState :=
  if !c.attached then c
  else if c.finished then c
  else if cfg.errPolicy = .abort ∧ c.error then c
  else if !c.running then { c with ref := ts, running := true }
  else if inCaptureBand cfg (duration ts c.ref) then c.appendPulse ts (duration ts c.ref)
  else { c with error := true }

/-- EDGE (R85). The level is carried and read by no rule (R94). -/
def execEdge (ts : Tick) (_lv : BitVec 1) (s : State) : Host.Outcome State Fault Refusal :=
  gated (CoreState.sampleEdge s.cfg ts) s

end Sys2Proof.Machine
end

