-- ==== Sys2Proof/Machine/Dispatch.lean ====
section
/-! DEFINITION. One arm per transaction (spec/40_control.md rule R71: `case d of`). -/

namespace Sys2Proof.Machine

def exec (i : Instr) (s : State) : Host.Outcome State Fault Refusal :=
  match i with
  | .nop => Sys2Proof.Machine.execNop s
  | .arm => Sys2Proof.Machine.execArm s
  | .close => Sys2Proof.Machine.execClose s
  | .decode => Sys2Proof.Machine.execDecode s
  | .edge ts lv => Sys2Proof.Machine.execEdge ts lv s
  | .read addr => Sys2Proof.Machine.execRead addr s
  | .reset => Sys2Proof.Machine.execReset s

end Sys2Proof.Machine
end

