-- ==== Sys2Proof/Machine/Step.lean ====
section
/-! DEFINITION. One step: one transaction of the merged order (spec/00_scope.md R7, R15, spec/40_control.md R71). -/

namespace Sys2Proof.Machine

/-- The core's step on one transaction word: `step(cfg, S, T)` of R15 and R71, S and cfg in the state, out in the state. -/
def perform (w : TWord) (s : State) : Host.Outcome State Fault Refusal :=
  match decode w with
  | .legal i => exec i s
  | .illegal _ => execIllegal s

/-- One step of the machine: an ill-formed configuration is refused (R10); with a word pending, it is consumed and performed
(R7, R57); with none, the core waits and nothing changes, since it "has no step of its own" (R6; DEDUCED, log entry 4). -/
def step (s : State) : Host.Outcome State Fault Refusal :=
  if s.cfg.wf then
    match nextWord s with
    | none => .next s
    | some (w, s') => perform w s'
  else .refused .illFormedConfig

/-- The word placed where step takes its next transaction: first in the host's stream, the host's turn next (R67: the core does
not know which agent issued a word; log entry 8). -/
def State.withFetchWord (s : State) (_nbits w : Nat) : State :=
  { s with host := BitVec.ofNat 40 w :: s.host, merge := .host :: s.merge }

end Sys2Proof.Machine
end

