-- ==== Sys2Proof/Machine/Run.lean ====
section
/-! DEFINITION. Runs: words performed one after the other, and steps of the machine (spec/00_scope.md rules R7, R15). -/

namespace Sys2Proof.Machine

/-- Go on with `f` from the next state; a stop stays a stop. -/
def andThen {α β : Type} (o : Host.Outcome α Fault Refusal) (f : α → Host.Outcome β Fault Refusal) :
    Host.Outcome β Fault Refusal :=
  match o with
  | .next a => f a
  | .fault r => .fault r
  | .refused r => .refused r

/-- A run: the words performed one after the other, each seeing all effects of the earlier ones (R7, R15). -/
def performs : List TWord → State → Host.Outcome State Fault Refusal
  | [], s => .next s
  | w :: ws, s =>
    match perform w s with
    | .next s' => performs ws s'
    | .fault r => .fault r
    | .refused r => .refused r

/-- `n` steps of the machine, the words taken from the two streams as the merge order says (R7). -/
def steps : Nat → State → Host.Outcome State Fault Refusal
  | 0, s => .next s
  | n + 1, s =>
    match step s with
    | .next s' => steps n s'
    | .fault r => .fault r
    | .refused r => .refused r

end Sys2Proof.Machine
end

