-- ==== Sys2Proof/Machine/HostProcedure.lean ====
section
/-! DEFINITION. The host's procedure `attemptReading` with its handshake (spec/40_control.md rules R79 to R84,
spec/70_reset_and_hazards.md rule R148) and the Result it returns (spec/45_checksum_decode.md rule R127). The core sees only the
words it issues; the pin and the waits are the host's (R4). -/

namespace Sys2Proof.Machine

/-- What the host does to the line, or issues to the core. -/
inductive HostAction where
  /-- "exclusive, ephemeral control of the GPIO line" (R79, R148 step 1) -/
  | takeLine
  /-- the line "as output, weak pull-down" (R80) -/
  | configureOutput
  | wait (ticks : Nat)
  | driveLow (ticks : Nat)
  | driveHigh (ticks : Nat)
  /-- "so the sensor can drive it" (R83) -/
  | switchToInput
  | issue (i : Instr)
  deriving DecidableEq, Repr

/-- Steps (a) to (d) of the handshake, in order (R80 to R83). -/
def handshake (p : HostParams) : List HostAction :=
  [.configureOutput, .wait p.settle, .driveLow p.wakeLow, .driveHigh p.wakeHigh, .switchToInput]

/-- Steps 1 to 6 of R148, ARM standing at ARM_POINT of the handshake (log entry 12). Step 0, phase DETACHED, is a premise of the
claims. The whole wait of WINDOW_TICKS stands after both ARM and the last handshake action, in the order of R148's steps; so where
ARM stands before the handshake's end, the sampler is attached for the rest of the handshake and then the window, although R17
calls the window the time during which the sampler is attached (DESIGN CHOICE, log entry 19). -/
def attemptSteps (p : HostParams) : List HostAction :=
  .takeLine :: ((handshake p).take p.armPoint ++ [.issue .arm] ++ (handshake p).drop p.armPoint
    ++ [.wait p.windowTicks, .issue .close, .issue .decode])

/-- Step 7 of R148 after READ 0x70: the addresses read "as RES_CODE requires". The spec lists no reads per code: the model reads
the frame for OK, VIOL_INDEX and VIOL_MEAS for STRUCT_VIOLATION and for DECODE_INVALID, where D13 lets a host ignore them, and
nothing more for any other code (DESIGN CHOICE, log entry 16). -/
def resultAddresses (code : BitVec 3) : List Byte :=
  if code = 1#3 then [0x73#8, 0x74#8, 0x75#8, 0x76#8, 0x77#8]
  else if code = 4#3 ∨ code = 5#3 then [0x71#8, 0x72#8]
  else []

/-- Step 7 of R148 for a RES_CODE. -/
def resultReads (code : BitVec 3) : List HostAction := (0x70#8 :: resultAddresses code).map fun addr => .issue (.read addr)

/-- Steps 1 to 7 of R148 as a list, for the RES_CODE that step 7 reads; `attemptReading` takes it from the core. -/
def attemptActions (p : HostParams) (code : BitVec 3) : List HostAction := attemptSteps p ++ resultReads code

/-- The word an action issues to the core, if any. -/
def HostAction.word : HostAction → Option TWord
  | .takeLine => none
  | .configureOutput => none
  | .wait _ => none
  | .driveLow _ => none
  | .driveHigh _ => none
  | .switchToInput => none
  | .issue i => some (encode i)

/-- The host's stream: the words its actions issue, in order (R6, R7). -/
def hostWords (as : List HostAction) : List TWord := as.filterMap HostAction.word

/-! ### The Result, and the procedure with the bytes it reads -/

/-- `Result<DecodedFrame, ReadingError>` (R127): `ok` is its success, the others its errors. `captureError` "has no source
counterpart" (R127, C3) and is returned as an error of its own (DESIGN CHOICE, log entry 17). -/
inductive ReadingResult where
  /-- `Ok(DecodedFrame(b0..b4))` -/
  | ok (b : Frame)
  /-- `Timeout` -/
  | timeout
  /-- CAPTURE_ERROR, the spec's own -/
  | captureError
  /-- `StructuralViolation{index, measured}` -/
  | structuralViolation (index : Index) (measured : Byte)
  /-- `DecodeInvalid`, without a payload -/
  | decodeInvalid
  /-- `ChecksumMismatch` -/
  | checksumMismatch
  deriving DecidableEq, Repr

/-- The Result that RES_CODE and the bytes read after it give (R127; step 8 of R148). None for NONE (0), for the reserved code 7
(log entry 17), and for a number of bytes that `resultAddresses` does not give. -/
def returned (code : BitVec 3) : List Byte → Option ReadingResult
  | [] =>
    if code = 2#3 then some .timeout
    else if code = 3#3 then some .captureError
    else if code = 6#3 then some .checksumMismatch
    else none
  | [i, m] =>
    if code = 4#3 then some (.structuralViolation (i.setWidth 7) m)
    else if code = 5#3 then some .decodeInvalid
    else none
  | [b0, b1, b2, b3, b4] => if code = 1#3 then some (.ok #v[b0, b1, b2, b3, b4]) else none
  | _ => none

/-- A host procedure: what it does next may depend on the bytes it has read. -/
inductive HostProc where
  /-- returns -/
  | done (r : Option ReadingResult)
  | act (a : HostAction) (next : HostProc)
  /-- issues READ and goes on with the byte the core outputs -/
  | read (addr : Byte) (next : Byte → HostProc)

/-- A list of actions, and then `next`. -/
def HostProc.acts : List HostAction → HostProc → HostProc
  | [], next => next
  | a :: as, next => .act a (acts as next)

/-- A list of READs, and then `next` on their bytes. -/
def HostProc.reads : List Byte → (List Byte → HostProc) → HostProc
  | [], next => next []
  | addr :: addrs, next => .read addr fun b => reads addrs fun bs => next (b :: bs)

/-- `attemptReading()` (R148, steps 1 to 8). RES_CODE is bits 2:0 of the byte that READ 0x70 returns (R35). -/
def attemptReading (p : HostParams) : HostProc :=
  .acts (attemptSteps p) (.read 0x70#8 fun c =>
    .reads (resultAddresses (c.setWidth 3)) fun bs => .done (returned (c.setWidth 3) bs))

/-- A procedure run against the core, to the state after it and what it returns. `line` holds the words the line delivers: its first
list before the host's first word, its next before the next word, and all that is left before the return; so every interleaving of
the two agents' words is the run of some `line` (R7). A READ always has its byte (R78); without one there is no result. -/
def HostProc.run : HostProc → List (List TWord) → State → Host.Outcome (State × Option ReadingResult) Fault Refusal
  | .done r, line, s => andThen (performs line.flatten s) fun t => .next (t, r)
  | .act a next, line, s =>
    match a.word with
    | none => next.run line s
    | some w => andThen (performs (line.headD [] ++ [w]) s) fun t => next.run line.tail t
  | .read addr next, line, s =>
    andThen (performs (line.headD [] ++ [encode (.read addr)]) s) fun t =>
      match t.out with
      | some b => (next b).run line.tail t
      | none => .next (t, none)

end Sys2Proof.Machine
end

