-- ==== Sys2Proof/Machine/Phase.lean ====
section
/-! DEFINITION. The phase machine of the core (spec/40_control.md rule R72): its control flow. -/

namespace Sys2Proof.Machine

/-- The phases of R72. -/
inductive Phase where
  | detached
  | waitFirst
  | sampling
  | full
  | faulted
  deriving DecidableEq, Repr

/-- The phase of a state (R72). In the states no run reaches (attached with running and finished both T) the first matching line
holds (log entry 7). -/
def CoreState.phase (c : CoreState) : Phase :=
  if c.faulted then .faulted
  else if !c.attached then .detached
  else if c.finished then .full
  else if c.running then .sampling
  else .waitFirst

/-- The table of R72: the phases a transaction may lead to. EDGE in SAMPLING has two, every other cell one. -/
def Phase.successors (p : Phase) : Decoded → List Phase
  | .illegal _ => [.faulted]
  | .legal .reset => [.detached]
  | .legal .nop => [p]
  | .legal (.read _) => [p]
  | .legal .arm => if p = .detached then [.waitFirst] else [.faulted]
  | .legal .decode => if p = .detached then [.detached] else [.faulted]
  | .legal .close => if p = .faulted then [.faulted] else [.detached]
  | .legal (.edge _ _) =>
    match p with
    | .detached => [.detached]
    | .waitFirst => [.sampling]
    | .sampling => [.sampling, .full]
    | .full => [.full]
    | .faulted => [.faulted]

end Sys2Proof.Machine
end

