-- ==== Sys2Proof/Machine/Trace.lean ====
section
/-! DEFINITION. Traces, the spec's assembly language, as abstract syntax, and their words (spec/30_encoding.md rules R68 to
R70). The written form of a number or a comment carries no meaning and is not modelled (log entry 11). -/

namespace Sys2Proof.Machine

/-- One line of a trace (R68) or one pseudo-instruction (R69). -/
inductive TraceLine where
  | instr (i : Instr)
  /-- `.word w` -/
  | word (w : TWord)
  /-- `START t0` -/
  | start (t0 : Tick)
  /-- `PULSE d` -/
  | pulse (d : Tick)
  /-- `FRAME b0, ..., b4` -/
  | frame (b : Frame)
  /-- `FRAMEX b0, ..., b4, h0, h1, h2, hd, z, o` -/
  | framex (b : Frame) (h0 h1 h2 hd z o : Tick)
  /-- `FINISH` -/
  | finish
  /-- `READRES` -/
  | readres
  deriving DecidableEq, Repr

/-- What the assembler keeps: a time t and a level l (R69). -/
structure AsmState where
  t : Tick
  l : BitVec 1
  deriving DecidableEq, Repr

/-- "both start at 0" (R69). -/
def AsmState.initial : AsmState := ⟨0, 0⟩

/-- The move of `PULSE d`: t <- (t + d) mod 2^32, l <- 1 − l (R69). -/
def AsmState.advance (a : AsmState) (d : Tick) : AsmState := ⟨a.t + d, 1 - a.l⟩

/-- `EDGE t, l` (R69). -/
def AsmState.edgeWord (a : AsmState) : TWord := encode (.edge a.t a.l)

/-- One `PULSE` for each duration, in order (R69). -/
def pulseWords (a : AsmState) : List Tick → AsmState × List TWord
  | [] => (a, [])
  | d :: ds =>
    let r := pulseWords (a.advance d) ds
    (r.1, (a.advance d).edgeWord :: r.2)

/-- The 83 durations of a FRAMEX expansion, in order: the handshake, then header and data of each payload bit (R69). -/
def frameDurations (b : Frame) (h0 h1 h2 hd z o : Tick) : List Tick :=
  [h0, h1, h2] ++ (List.finRange 40).flatMap fun j => [hd, if payloadBit b j then o else z]

/-- The expansion of one line and the assembler's state after it (R69). Only START, PULSE, FRAME and FRAMEX move t and l. -/
def TraceLine.expand (a : AsmState) : TraceLine → AsmState × List TWord
  | .instr i => (a, [encode i])
  | .word w => (a, [w])
  | .start t0 => (⟨t0, 0⟩, [AsmState.edgeWord ⟨t0, 0⟩])
  | .pulse d => pulseWords a [d]
  | .frame b => pulseWords a (frameDurations b 30 80 80 50 26 70)
  | .framex b h0 h1 h2 hd z o => pulseWords a (frameDurations b h0 h1 h2 hd z o)
  | .finish => (a, [encode .close, encode .decode])
  | .readres => (a, [encode (.read 0x70#8), encode (.read 0x71#8), encode (.read 0x72#8), encode (.read 0x73#8),
      encode (.read 0x74#8), encode (.read 0x75#8), encode (.read 0x76#8), encode (.read 0x77#8)])

/-- The words of a trace from a state of the assembler. -/
def traceWordsFrom (a : AsmState) : List TraceLine → List TWord
  | [] => []
  | l :: ls => (l.expand a).2 ++ traceWordsFrom (l.expand a).1 ls

/-- The words of a trace (R68, R69). -/
def traceWords (ls : List TraceLine) : List TWord := traceWordsFrom AsmState.initial ls

end Sys2Proof.Machine
end

