-- ==== Sys2Proof/Safety.lean ====
section
/-! DEFINITION. The terms claims use: interleavings, a safe final state, and the invariants the spec states of
every state a run reaches (spec/10_state.md rules R25, R26, R29, R30, R32, R37, spec/45_checksum_decode.md rule R124). -/

namespace Sys2Proof.Machine

/-- `zs` merges `xs` and `ys`, each keeping its own order (R7). -/
inductive Interleave {α : Type} : List α → List α → List α → Prop where
  | nil : Interleave [] [] []
  | left {xs ys zs : List α} (x : α) : Interleave xs ys zs → Interleave (x :: xs) ys (x :: zs)
  | right {xs ys zs : List α} (y : α) : Interleave xs ys zs → Interleave xs (y :: ys) (y :: zs)

/-- "a fault is a bad final state" (R128): a run is safe when no fault is latched at its end. -/
def State.Safe (s : State) : Prop := s.core.faulted = false

/-- A word that decodes to EDGE, whatever its operands. -/
def IsEdgeWord (w : TWord) : Prop := ∃ ts lv, decode w = .legal (.edge ts lv)

/-- What R21, R25 and R26 say of the capture in every state a run reaches. -/
structure CoreState.CaptureInv (cfg : Config) (c : CoreState) : Prop where
  /-- "never exceeds CAP = 83" (R21) -/
  cursor_le : c.cursor.toNat ≤ 83
  /-- R25 (a) -/
  finished_iff : c.finished = true ↔ c.cursor.toNat = 83
  /-- R25 (b) -/
  finished_stops : c.finished = true → c.running = false
  /-- R25 (c) -/
  idle_clear : c.running = false → c.finished = false → c.cursor = 0#7 ∧ c.error = false ∧ c.ref = 0#32
  /-- R25 (d), its second part -/
  started : 0 < c.cursor.toNat → c.running = true ∨ c.finished = true
  /-- R25 (e) -/
  abort_unfinished : cfg.errPolicy = .abort → c.error = true → c.finished = false
  /-- "Entries with index ≥ cursor hold 0" (R26) -/
  unwritten : ∀ i : Fin 83, c.cursor.toNat ≤ i.val → c.buf[i.val] = 0#8
  /-- "Every entry with index < cursor holds a value in (CAP_LO, CAP_HI)" (R26) -/
  written : ∀ i : Fin 83, i.val < c.cursor.toNat → cfg.capLo < c.buf[i.val].toNat ∧ c.buf[i.val].toNat < cfg.capHi

/-- What R29, R30, R32, R37 and R124 say of the result and fault registers in every state a run reaches. -/
structure CoreState.ResultInv (cfg : Config) (c : CoreState) : Prop where
  /-- "Value 7 is reserved and never written" (R29) -/
  code_legal : c.resCode ≠ 7#3
  /-- R30: "For every other res_code both hold 0" -/
  viol_zero : c.resCode ≠ 4#3 → c.resCode ≠ 5#3 → c.violIndex = 0#7 ∧ c.violMeas = 0#8
  /-- R30: "frame[0..4] hold the five assembled bytes when res_code is 1 (OK) and 0 otherwise" -/
  frame_zero : c.resCode ≠ 1#3 → ∀ k : Fin 5, c.frame[k.val] = 0#8
  /-- a result stands only beside a detached capture (ARM clears it, R76), and it is the outcome of that very capture (R53,
  R122, R123): evaluating it again writes what stands there -/
  outcome : c.resCode ≠ 0#3 → c.attached = false ∧ c.writeResult (evaluate cfg c) = c
  /-- R32: "faulted = F if and only if fault_cause = 0" -/
  cause_iff : c.faulted = false ↔ c.faultCause = 0#2

/-- The invariant of the machine. -/
structure State.Inv (s : State) : Prop where
  capture : s.core.CaptureInv s.cfg
  result : s.core.ResultInv s.cfg

end Sys2Proof.Machine
end

