-- ==== Sys2Proof/Certificates/Slice0/Obligations.lean ====
section
/-! DEFINITION. The statements for the provers, in the order of the spec's files. Each says which rule it formalises. -/

open Sys2Proof Sys2Proof.Machine

/-! ### Configuration and totality (spec/00_scope.md) -/

/-- What a well-formed configuration is (R10), and that the machine refuses an ill-formed one. R10 and I6 say that a model refuses
it; that the refusal falls on every step, an idle one too, is the model's reading (DEDUCED, log entry 2). -/
def Obligations.IllFormedConfigurationIsRefused : Prop :=
  (∀ c : Config, c.wf = true ↔
    (c.capLo < c.capHi ∧ c.capHi ≤ 256) ∧
    (∀ b ∈ [c.hs0, c.hs1, c.hdr, c.vb0, c.vb1, c.db0, c.db1], b.lo ≤ b.hi ∧ b.hi ≤ 255) ∧
    c.db0.hi < c.db1.lo ∧
    (c.errPolicy = .continue ∨ c.errPolicy = .abort)) ∧
  Config.default.wf = true ∧ Config.legacy.wf = true ∧
  ∀ s : State, s.cfg.wf = false → step s = .refused .illFormedConfig

/-- Performing a word is total on every 40-bit word and every state, the result depends on nothing but the configuration, the core
state and the word (R15), and what the fault gate (R71) or R86, R87 or R88 ignores returns S' = S and out = none. The machine's own
step answers a next state under every well-formed configuration; with no word pending R15 gives no step, and that step is the
model's idle one (DEDUCED, log entry 4). -/
def Obligations.EveryWordHasAResult : Prop :=
  (∀ (w : TWord) (s : State), ∃ t, perform w s = .next t ∧ t.cfg = s.cfg ∧ t.line = s.line ∧ t.host = s.host ∧
    t.merge = s.merge) ∧
  (∀ (w : TWord) (s s' t t' : State), s.cfg = s'.cfg → s.core = s'.core → perform w s = .next t → perform w s' = .next t' →
    t.core = t'.core ∧ t.out = t'.out) ∧
  (∀ s : State, s.cfg.wf = true → ∃ t, step s = .next t ∧ t.cfg = s.cfg) ∧
  (∀ (w : TWord) (s : State), s.core.faulted = true → decode w ≠ .legal .reset → (∀ addr, decode w ≠ .legal (.read addr)) →
    perform w s = .next { s with out := none }) ∧
  (∀ (w : TWord) (s : State), IsEdgeWord w →
    s.core.attached = false ∨ s.core.finished = true ∨ (s.cfg.errPolicy = .abort ∧ s.core.error = true) →
    perform w s = .next { s with out := none })

/-- One transaction at a time, each agent's own order kept, and every interleaving of the two streams a possible run; and no run is
anything else (R7). That the merge order is the State's input `merge` is the model's choice (DESIGN CHOICE, log entry 3); that the
`n` steps of the second part may hold idle ones, which perform nothing, is the model's too (DEDUCED, log entry 4). -/
def Obligations.EveryInterleavingIsARun : Prop :=
  (∀ (s : State) (ls hs ws : List TWord), s.cfg.wf = true → Interleave ls hs ws →
    ∃ (m : List Agent) (t u : State),
      steps ws.length { s with line := ls, host := hs, merge := m } = .next t ∧ performs ws s = .next u ∧
      t.core = u.core ∧ t.out = u.out ∧ t.line = [] ∧ t.host = []) ∧
  (∀ (n : Nat) (s t : State), steps n s = .next t →
    ∃ (ls hs ws : List TWord) (u : State), s.line = ls ++ t.line ∧ s.host = hs ++ t.host ∧ Interleave ls hs ws ∧
      performs ws s = .next u ∧ t.core = u.core ∧ t.out = u.out)

/-- The step runs the decoded transaction on the state with its word consumed; with none pending it waits (log entry 4); the
word delivered is the head of one agent's stream; and `withFetchWord` places the next word (log entry 8). -/
def Obligations.StepRunsTheDeliveredTransaction : Prop :=
  (∀ (s s' : State) (w : TWord), s.cfg.wf = true → nextWord s = some (w, s') →
    (∀ i, decode w = .legal i → step s = exec i s') ∧
    (∀ why, decode w = .illegal why → step s = execIllegal s') ∧
    ((s.line = w :: s'.line ∧ s'.host = s.host) ∨ (s.host = w :: s'.host ∧ s'.line = s.line)) ∧
    s'.core = s.core ∧ s'.cfg = s.cfg ∧ s'.out = s.out) ∧
  (∀ s : State, s.cfg.wf = true → s.line = [] → s.host = [] → step s = .next s) ∧
  (∀ (s : State) (n w : Nat) (i : Instr), s.cfg.wf = true → decode (BitVec.ofNat 40 w) = .legal i →
    step (s.withFetchWord n w) = exec i s)

/-! ### The registers (spec/10_state.md, spec/20_memory.md) -/

/-- R38, R39: power-on equals RESET, and every field's reset value. -/
def Obligations.PowerOnEqualsReset : Prop :=
  ∀ s : State, ∃ t, exec .reset s = .next t ∧ t.core = State.reset.core ∧
    (∀ i : Fin 83, t.core.buf[i.val] = 0#8) ∧ t.core.cursor = 0#7 ∧ t.core.running = false ∧ t.core.finished = false ∧
    t.core.error = false ∧ t.core.ref = 0#32 ∧ t.core.attached = false ∧ t.core.resCode = 0#3 ∧ t.core.violIndex = 0#7 ∧
    t.core.violMeas = 0#8 ∧ (∀ k : Fin 5, t.core.frame[k.val] = 0#8) ∧ t.core.faulted = false ∧ t.core.faultCause = 0#2 ∧
    t.core.phase = .detached

/-- R31: the STATUS register bit by bit, and its reset value. -/
def Obligations.StatusRegisterBits : Prop :=
  (∀ c : CoreState,
    (memRead c 0x60#8).getLsbD 0 = c.running ∧ (memRead c 0x60#8).getLsbD 1 = c.finished ∧
    (memRead c 0x60#8).getLsbD 2 = c.error ∧ (memRead c 0x60#8).getLsbD 3 = c.attached ∧
    (memRead c 0x60#8).getLsbD 4 = c.faulted ∧ ∀ k, 5 ≤ k → (memRead c 0x60#8).getLsbD k = false) ∧
  memRead State.reset.core 0x60#8 = 0x00#8

/-- The values R33 to R36 give the other registers, whose reserved bits read 0, and every register's reset value. That no transaction
writes a register through the register space is said by the frames, not here. -/
def Obligations.RegisterValuesAndResetValues : Prop :=
  (∀ c : CoreState,
    (memRead c 0x61#8).toNat = c.cursor.toNat ∧ (memRead c 0x62#8).toNat = c.faultCause.toNat ∧
    (memRead c 0x70#8).toNat = c.resCode.toNat ∧ (memRead c 0x71#8).toNat = c.violIndex.toNat ∧
    memRead c 0x72#8 = c.violMeas ∧
    (∀ k : Fin 5, memRead c (BitVec.ofNat 8 (0x73 + k.val)) = c.frame[k.val]) ∧
    (∀ i : Fin 83, memRead c (BitVec.ofNat 8 i.val) = c.buf[i.val])) ∧
  ∀ addr : Byte, memRead State.reset.core addr = 0x00#8

/-- R42: a reserved address reads 0x00, changes no state and raises no fault, in every phase. -/
def Obligations.ReservedAddressReadsZero : Prop :=
  ∀ (s : State) (addr : Byte),
    (0x53 ≤ addr.toNat ∧ addr.toNat ≤ 0x5F) ∨ (0x63 ≤ addr.toNat ∧ addr.toNat ≤ 0x6F) ∨ 0x78 ≤ addr.toNat →
    exec (.read addr) s = .next { s with out := some 0x00#8 }

/-- R27: no register address exposes ref. -/
def Obligations.ReferenceIsNotReadable : Prop :=
  ∀ (c : CoreState) (r : Tick) (addr : Byte), memRead { c with ref := r } addr = memRead c addr

/-- Who may write what (R20, R22 to R24, R27 to R30, R32, R50): for every field, the transactions that leave it alone. This is the
frame of all seven transactions at once. -/
def Obligations.OnlyTheNamedTransactionsWriteAField : Prop :=
  ∀ (i : Instr) (s t : State), exec i s = .next t →
    (t.cfg = s.cfg ∧ t.line = s.line ∧ t.host = s.host ∧ t.merge = s.merge) ∧
    ((∀ ts lv, i ≠ .edge ts lv) → i ≠ .arm → i ≠ .reset →
      t.core.buf = s.core.buf ∧ t.core.cursor = s.core.cursor ∧ t.core.ref = s.core.ref ∧
      t.core.running = s.core.running ∧ t.core.finished = s.core.finished ∧ t.core.error = s.core.error) ∧
    (i ≠ .arm → i ≠ .close → i ≠ .reset → t.core.attached = s.core.attached) ∧
    (i ≠ .decode → i ≠ .arm → i ≠ .reset →
      t.core.resCode = s.core.resCode ∧ t.core.violIndex = s.core.violIndex ∧ t.core.violMeas = s.core.violMeas ∧
      t.core.frame = s.core.frame) ∧
    (i ≠ .arm → i ≠ .decode → i ≠ .reset →
      t.core.faulted = s.core.faulted ∧ t.core.faultCause = s.core.faultCause) ∧
    (i = .arm → t.core.faulted = s.core.faulted ∨ (t.core.buf = s.core.buf ∧ t.core.cursor = s.core.cursor))

/-- From R21: the cursor changes only by one, and then for an accepted duration, or to 0, and then by ARM or RESET, and stays at or
below 83. That every accepted duration does advance it, and that ARM and RESET do clear it, is said by
`InBandEdgeAppendsItsDuration`, `ArmStartsACaptureOrFaults` and `ResetRestoresEveryField`. -/
def Obligations.CursorChangesOnlyByOneOrToZero : Prop :=
  ∀ (w : TWord) (s t : State), s.Inv → perform w s = .next t →
    t.core.cursor.toNat ≤ 83 ∧
    (t.core.cursor = s.core.cursor ∨
      (t.core.cursor.toNat = s.core.cursor.toNat + 1 ∧
        ∃ ts lv, decode w = .legal (.edge ts lv) ∧ s.core.running = true ∧
          s.cfg.capLo < (ts - s.core.ref).toNat ∧ (ts - s.core.ref).toNat < s.cfg.capHi) ∨
      (t.core.cursor = 0#7 ∧ (decode w = .legal .arm ∨ decode w = .legal .reset)))

/-- R25, R26, R29, R30, R32: the invariants hold after reset. -/
def Obligations.InvariantHoldsAtReset : Prop := State.reset.Inv

/-- R25, R26, R29, R30, R32, R37, R124: every step keeps the invariants, from every state that has them. -/
def Obligations.EveryStepKeepsTheInvariant : Prop :=
  ∀ s t : State, s.Inv → step s = .next t → t.Inv

/-- R25 (d), its first part: a capture that holds a duration is attached, or the core has seen a CLOSE since the ARM that started
it. Over runs from reset: the capture that stands at the end is the one some CLOSE of the run found attached. -/
def Obligations.DetachedCaptureHasSeenClose : Prop :=
  ∀ (cfg : Config) (ws : List TWord) (t : State),
    performs ws { State.reset with cfg := cfg } = .next t → 0 < t.core.cursor.toNat → t.core.attached = false →
    ∃ (pre post : List TWord) (u : State), ws = pre ++ encode .close :: post ∧
      performs pre { State.reset with cfg := cfg } = .next u ∧ u.core.attached = true ∧ u.core.faulted = false ∧
      u.core.buf = t.core.buf ∧ u.core.cursor = t.core.cursor

/-! ### Encoding (spec/30_encoding.md) -/

/-- R61 to R64: decoding an encoded transaction gives it back, with every operand at every value. -/
def Obligations.DecodeOfEncodeIsTheInstruction : Prop :=
  ∀ i : Instr, i.wf = true → decode (encode i) = .legal i

/-- R61 to R64: a legal word is the encoding of the transaction it decodes to; each transaction has exactly one word. -/
def Obligations.LegalWordIsTheEncoding : Prop :=
  ∀ (w : TWord) (i : Instr), decode w = .legal i → encode i = w

/-- R63: every word selects at most one row, and it decodes to a transaction exactly when it selects that transaction's row. -/
def Obligations.DecoderFollowsTheOpcodeTable : Prop :=
  (∀ (w : TWord) (r₁ r₂ : OpcodeRow), r₁ ∈ opcodeTable → r₂ ∈ opcodeTable → r₁.selectedBy w = true →
    r₂.selectedBy w = true → r₁ = r₂) ∧
  (∀ (w : TWord) (r : OpcodeRow), r ∈ opcodeTable →
    (r.selectedBy w = true ↔ ∃ i, decode w = .legal i ∧ i.mnemonic = r.mnemonic))

/-- R65: which words are illegal, and what an illegal word does. -/
def Obligations.IllegalWordsFaultOrAreIgnored : Prop :=
  (∀ w : TWord, (∃ why, decode w = .illegal why) ↔
    0x7 ≤ (opField w).toNat ∨
    ((opField w).toNat ≤ 0x6 ∧ opField w ≠ 0x4#4 ∧ opField w ≠ 0x5#4 ∧ zeroFieldC w ≠ 0#36) ∨
    (opField w = 0x4#4 ∧ zeroFieldE w ≠ 0#3) ∨ (opField w = 0x5#4 ∧ zeroFieldR w ≠ 0#28)) ∧
  (∀ (w : TWord) (why : Illegal) (s : State), decode w = .illegal why → s.core.faulted = false →
    perform w s = .next { s with core := { s.core with faulted := true, faultCause := 1#2 }, out := none }) ∧
  (∀ (w : TWord) (why : Illegal) (s : State), decode w = .illegal why → s.core.faulted = true →
    perform w s = .next { s with out := none })

/-- A few words written from R61 and R63 decode to the transactions they stand for (spec/95_test_vectors.md section 2). -/
def Obligations.WrittenWordsDecode : Prop :=
  decode 0x0000000000#40 = .legal .nop ∧ decode 0x1000000000#40 = .legal .arm ∧ decode 0x2000000000#40 = .legal .close ∧
  decode 0x3000000000#40 = .legal .decode ∧ decode 0x6000000000#40 = .legal .reset ∧
  decode 0x41000003E8#40 = .legal (.edge 1000#32 1#1) ∧ decode 0x40FFFFFFFF#40 = .legal (.edge 0xFFFFFFFF#32 0#1) ∧
  decode 0x5000000070#40 = .legal (.read 0x70#8) ∧ decode 0x50000000FF#40 = .legal (.read 0xFF#8) ∧
  decode 0x4200000000#40 = .illegal .nonzeroField ∧ decode 0x7000000000#40 = .illegal .reservedOp

/-- R70: a FRAME after a START, taken by an armed core in WAIT_FIRST at the default configuration, fills the buffer with the
durations listed. -/
def Obligations.FrameExpansionFillsTheBuffer : Prop :=
  ∀ (s : State) (t0 : Tick) (b : Frame), s.Inv → s.cfg = Config.default → s.core.phase = .waitFirst →
    (traceWords [.start t0, .frame b]).length = 84 ∧
    ∃ t, performs (traceWords [.start t0, .frame b]) s = .next t ∧ t.core.phase = .full ∧
      t.core.error = false ∧
      t.core.buf[0] = 30#8 ∧ t.core.buf[1] = 80#8 ∧ t.core.buf[2] = 80#8 ∧
      (∀ i : Fin 83, 3 ≤ i.val → i.val % 2 = 1 → t.core.buf[i.val] = 50#8) ∧
      (∀ j : Fin 40, t.core.buf[4 + 2 * j.val] = if b[j.val / 8].getLsbD (7 - j.val % 8) then 70#8 else 26#8)

/-! ### Control transactions (spec/40_control.md) -/

/-- R74: NOP does nothing; only the word 0x0000000000 is NOP. -/
def Obligations.NopDoesNothing : Prop :=
  encode .nop = 0x0000000000#40 ∧
  (∀ s : State, exec .nop s = .next { s with out := none }) ∧
  (∀ w : TWord, opField w = 0x0#4 → w ≠ 0x0000000000#40 → decode w = .illegal .nonzeroField)

/-- R75: RESET puts every field into its reset value, in every phase, and is the only transaction that clears a fault. -/
def Obligations.ResetRestoresEveryField : Prop :=
  encode .reset = 0x6000000000#40 ∧
  (∀ s : State, exec .reset s = .next { s with
      core := {
        buf := Vector.replicate 83 0#8, cursor := 0#7, running := false, finished := false, error := false, ref := 0#32,
        attached := false, resCode := 0#3, violIndex := 0#7, violMeas := 0#8, frame := Vector.replicate 5 0#8,
        faulted := false, faultCause := 0#2 },
      out := none }) ∧
  (∀ (w : TWord) (s t : State), s.core.faulted = true → perform w s = .next t → t.core.faulted = false →
    decode w = .legal .reset) ∧
  (∀ (w : TWord) (s : State), opField w = 0x6#4 → zeroFieldC w ≠ 0#36 → s.core.faulted = true →
    perform w s = .next { s with out := none }) ∧
  (∀ s t : State, exec .reset s = .next t →
    t.core = State.reset.core ∧
    memRead t.core 0x60#8 = 0x00#8 ∧ memRead t.core 0x62#8 = 0x00#8 ∧ memRead t.core 0x61#8 = 0x00#8)

/-- R76: ARM on a detached core starts a capture; on an attached one it raises ARM_WHILE_ATTACHED and keeps the capture. -/
def Obligations.ArmStartsACaptureOrFaults : Prop :=
  encode .arm = 0x1000000000#40 ∧
  (∀ s : State, s.core.faulted = false → s.core.attached = false →
    exec .arm s = .next { s with
      core := { s.core with
        buf := Vector.replicate 83 0#8, cursor := 0#7, running := false, finished := false, error := false, ref := 0#32,
        resCode := 0#3, violIndex := 0#7, violMeas := 0#8, frame := Vector.replicate 5 0#8, attached := true },
      out := none }) ∧
  (∀ s : State, s.core.faulted = false → s.core.attached = true →
    exec .arm s = .next { s with core := { s.core with faulted := true, faultCause := 2#2 }, out := none }) ∧
  (exec .arm State.reset = .next { State.reset with core := { CoreState.reset with attached := true } }) ∧
  (∀ t : State, exec .arm State.reset = .next t →
    memRead t.core 0x60#8 = 0x08#8 ∧ memRead t.core 0x61#8 = 0x00#8 ∧ memRead t.core 0x70#8 = 0x00#8)

/-- R77: CLOSE detaches and changes nothing else; when already detached it does nothing. -/
def Obligations.CloseDetachesOnly : Prop :=
  encode .close = 0x2000000000#40 ∧
  (∀ s : State, s.core.faulted = false →
    exec .close s = .next { s with core := { s.core with attached := false }, out := none }) ∧
  (∀ s : State, s.core.attached = false → exec .close s = .next { s with out := none }) ∧
  (∀ s t : State, s.core.phase = .sampling → s.core.finished = false → s.core.error = false → s.core.cursor = 40#7 →
    exec .close s = .next t → memRead t.core 0x60#8 = 0x01#8 ∧ memRead t.core 0x61#8 = 0x28#8)

/-- R78, R49: READ outputs the addressed byte, in every phase, and has no side effect; a READ word with a non-zero bit in
T[35:8] is illegal. -/
def Obligations.ReadReturnsTheByteAndChangesNothing : Prop :=
  (∀ addr : Byte, (encode (.read addr)).toNat = 0x5000000000 + addr.toNat) ∧
  (∀ (s : State) (addr : Byte), exec (.read addr) s = .next { s with out := some (memRead s.core addr) }) ∧
  (∀ (s t : State) (addr : Byte), exec (.read addr) s = .next t → exec (.read addr) t = .next t) ∧
  (∀ w : TWord, opField w = 0x5#4 → zeroFieldR w ≠ 0#28 → decode w = .illegal .nonzeroField)

/-- R14, R71: only READ has an output; every other word, illegal ones too, outputs none. -/
def Obligations.OnlyReadHasAnOutput : Prop :=
  ∀ (w : TWord) (s t : State), perform w s = .next t →
    (∀ addr, decode w = .legal (.read addr) → t.out = some (memRead s.core addr)) ∧
    ((∀ addr, decode w ≠ .legal (.read addr)) → t.out = none)

/-- R72: every transaction moves the core to a phase of the table; EDGE in SAMPLING fills the buffer on the 83rd accepted
duration and not before. -/
def Obligations.PhaseTransitionsFollowTheTable : Prop :=
  ∀ (w : TWord) (s t : State), s.Inv → perform w s = .next t →
    t.core.phase ∈ s.core.phase.successors (decode w) ∧
    (∀ ts lv, s.core.phase = .sampling → decode w = .legal (.edge ts lv) →
      (t.core.phase = .full ↔ s.core.cursor.toNat = 82 ∧ t.core.cursor.toNat = 83))

/-! ### The Edge Sampler (spec/41_edge_sampler.md) -/

/-- R86: while detached, every EDGE is ignored. -/
def Obligations.EdgeIgnoredWhileDetached : Prop :=
  ∀ (s : State) (ts : Tick) (lv : BitVec 1), s.core.attached = false →
    exec (.edge ts lv) s = .next { s with out := none }

/-- R87: while finished, every EDGE is ignored. -/
def Obligations.EdgeIgnoredWhenFinished : Prop :=
  ∀ (s : State) (ts : Tick) (lv : BitVec 1), s.core.finished = true →
    exec (.edge ts lv) s = .next { s with out := none }

/-- R88: under ABORT, every EDGE after the first error is ignored, so however many follow, a CLOSE and a DECODE report TIMEOUT;
under CONTINUE an error changes nothing in what an EDGE stores. -/
def Obligations.AbortStopsTheCaptureAtTheFirstError : Prop :=
  (∀ (s : State) (ts : Tick) (lv : BitVec 1), s.cfg.errPolicy = .abort → s.core.error = true →
    exec (.edge ts lv) s = .next { s with out := none }) ∧
  (∀ (s : State) (es : List TWord), s.cfg.errPolicy = .abort → s.core.error = true → s.core.finished = false →
    s.core.faulted = false → (∀ w ∈ es, IsEdgeWord w) →
    ∃ t, performs (es ++ [encode .close, encode .decode]) s = .next t ∧ t.core.resCode = 2#3) ∧
  (∀ (s t u : State) (ts : Tick) (lv : BitVec 1), s.cfg.errPolicy = .continue →
    exec (.edge ts lv) s = .next t → exec (.edge ts lv) { s with core := { s.core with error := true } } = .next u →
    u.core.buf = t.core.buf ∧ u.core.cursor = t.core.cursor ∧ u.core.ref = t.core.ref ∧
    u.core.running = t.core.running ∧ u.core.finished = t.core.finished)

/-- R89: the first EDGE after an ARM sets the reference and running, and stores nothing. -/
def Obligations.FirstEdgeSetsTheReference : Prop :=
  ∀ (s : State) (ts : Tick) (lv : BitVec 1), s.core.faulted = false → s.core.attached = true → s.core.finished = false →
    ¬ (s.cfg.errPolicy = .abort ∧ s.core.error = true) → s.core.running = false →
    exec (.edge ts lv) s = .next { s with core := { s.core with ref := ts, running := true }, out := none }

/-- R90: `d = (ts − ref) mod 2^32` is the forward distance from ref to ts: a wrapped timestamp still gives the true duration, an
equal one gives 0, and one tick before ref gives 2^32 − 1. -/
def Obligations.DurationIsTheForwardDistance : Prop :=
  (∀ ts ref : Tick, (duration ts ref).toNat = (ts.toNat + 2 ^ 32 - ref.toNat) % 2 ^ 32) ∧
  (∀ (ref : Tick) (d : Nat), d < 2 ^ 32 → (duration (BitVec.ofNat 32 ((ref.toNat + d) % 2 ^ 32)) ref).toNat = d) ∧
  (∀ ref : Tick, (duration ref ref).toNat = 0) ∧
  (∀ ref : Tick, (duration (ref - 1#32) ref).toNat = 2 ^ 32 - 1)

/-- R91, with R90's d and R92's last append: a later EDGE whose d lies strictly inside the capture band is appended, advances the
cursor by one and becomes the reference; the stored byte is d itself (R95). The 83rd append also stops running and finishes. -/
def Obligations.InBandEdgeAppendsItsDuration : Prop :=
  ∀ (s : State) (ts : Tick) (lv : BitVec 1) (d : Nat) (h : s.core.cursor.toNat < 83), s.core.faulted = false →
    s.core.attached = true → s.core.finished = false → ¬ (s.cfg.errPolicy = .abort ∧ s.core.error = true) →
    s.core.running = true → s.cfg.wf = true → d = (ts.toNat + 2 ^ 32 - s.core.ref.toNat) % 2 ^ 32 →
    s.cfg.capLo < d → d < s.cfg.capHi →
    (BitVec.ofNat 8 d).toNat = d ∧
    exec (.edge ts lv) s = .next { s with
      core := { s.core with
        buf := s.core.buf.set s.core.cursor.toNat (BitVec.ofNat 8 d) h,
        cursor := BitVec.ofNat 7 (s.core.cursor.toNat + 1), ref := ts,
        running := s.core.cursor.toNat ≠ 82, finished := s.core.cursor.toNat = 82 },
      out := none }

/-- R92: the EDGE whose append makes cursor = 83 also stops running and finishes, in the same transaction, and no further EDGE
changes the core. -/
def Obligations.LastAppendFinishesTheCapture : Prop :=
  ∀ (s : State) (ts : Tick) (lv : BitVec 1) (d : Nat), s.core.cursor.toNat = 82 → s.core.faulted = false →
    s.core.attached = true → s.core.finished = false → ¬ (s.cfg.errPolicy = .abort ∧ s.core.error = true) →
    s.core.running = true → s.cfg.wf = true → d = (ts.toNat + 2 ^ 32 - s.core.ref.toNat) % 2 ^ 32 →
    s.cfg.capLo < d → d < s.cfg.capHi →
    ∃ t, exec (.edge ts lv) s = .next t ∧
      t = { s with
        core := { s.core with
          buf := s.core.buf.set 82 (BitVec.ofNat 8 d), cursor := 83#7, ref := ts, running := false, finished := true },
        out := none } ∧
      ∀ ts' lv', exec (.edge ts' lv') t = .next t

/-- R93: an out-of-band duration sets error and changes nothing else; error stays until ARM or RESET. -/
def Obligations.OutOfBandEdgeSetsErrorOnly : Prop :=
  (∀ (s : State) (ts : Tick) (lv : BitVec 1) (d : Nat), s.core.faulted = false →
    s.core.attached = true → s.core.finished = false → ¬ (s.cfg.errPolicy = .abort ∧ s.core.error = true) →
    s.core.running = true → d = (ts.toNat + 2 ^ 32 - s.core.ref.toNat) % 2 ^ 32 →
    d ≤ s.cfg.capLo ∨ s.cfg.capHi ≤ d →
    exec (.edge ts lv) s = .next { s with core := { s.core with error := true }, out := none }) ∧
  (∀ (w : TWord) (s t : State), s.core.error = true → decode w ≠ .legal .arm → decode w ≠ .legal .reset →
    perform w s = .next t → t.core.error = true)

/-- R94: the level is ignored; two EDGEs at one time with different levels have the same result. -/
def Obligations.EdgeIgnoresTheLevel : Prop :=
  ∀ (s : State) (ts : Tick) (lv lv' : BitVec 1), exec (.edge ts lv) s = exec (.edge ts lv') s

/-- The register-space frame of EDGE (R26, R41, R85): every address but the PULSE register at the cursor, STATUS and CURSOR reads
as before. It has no premise on the cursor: that an accepted EDGE with cursor at or above 83 and finished = F, in a state no run
reaches, writes no PULSE register at all is the model's choice (DESIGN CHOICE, log entry 6). -/
def Obligations.EdgeChangesOnlyThreeRegisters : Prop :=
  ∀ (s t : State) (ts : Tick) (lv : BitVec 1) (addr : Byte),
    exec (.edge ts lv) s = .next t →
    ¬ (s.core.cursor.toNat < 83 ∧ addr.toNat = s.core.cursor.toNat) → addr ≠ 0x60#8 → addr ≠ 0x61#8 →
    memRead t.core addr = memRead s.core addr

/-! ### Frame Validator, Bit Decoder, Frame Assembler, Checksum Validator (spec/42 to spec/45) -/

/-- R97 to R102: Validate checks each pulse against the band for its position and reports the first that fails, or PASS. -/
def Obligations.ValidateReportsTheFirstFailure : Prop :=
  ∀ (cfg : Config) (buf : PulseBuffer) (inBand : Fin 83 → Prop),
    (∀ i : Fin 83, inBand i ↔
      if i.val = 0 then cfg.hs0.lo ≤ buf[i.val].toNat ∧ buf[i.val].toNat ≤ cfg.hs0.hi
      else if i.val ≤ 2 then cfg.hs1.lo ≤ buf[i.val].toNat ∧ buf[i.val].toNat ≤ cfg.hs1.hi
      else if i.val % 2 = 1 then cfg.hdr.lo ≤ buf[i.val].toNat ∧ buf[i.val].toNat ≤ cfg.hdr.hi
      else (cfg.vb0.lo ≤ buf[i.val].toNat ∧ buf[i.val].toNat ≤ cfg.vb0.hi) ∨
        (cfg.vb1.lo ≤ buf[i.val].toNat ∧ buf[i.val].toNat ≤ cfg.vb1.hi)) →
    (validate cfg buf = .pass ↔ ∀ i, inBand i) ∧
    (∀ (idx : Index) (m : Byte), validate cfg buf = .sv idx m ↔
      ∃ i : Fin 83, idx.toNat = i.val ∧ m = buf[i.val] ∧ ¬ inBand i ∧ ∀ k : Fin 83, k.val < i.val → inBand k) ∧
    (Config.default.hs0 = ⟨10, 50⟩ ∧ Config.default.hs1 = ⟨65, 95⟩ ∧ Config.default.hdr = ⟨40, 60⟩ ∧
      Config.default.vb0 = ⟨15, 35⟩ ∧ Config.default.vb1 = ⟨55, 85⟩)

/-- R106, R107, R108: what each duration decodes to, a duration in neither band being INVALID, and the two configurations' bands. -/
def Obligations.BitDecodeNeverDefaults : Prop :=
  ∀ (cfg : Config) (v : Byte), cfg.wf = true →
    (bitDecode cfg v = .zero ↔ cfg.db0.lo ≤ v.toNat ∧ v.toNat ≤ cfg.db0.hi) ∧
    (bitDecode cfg v = .one ↔ cfg.db1.lo ≤ v.toNat ∧ v.toNat ≤ cfg.db1.hi) ∧
    (bitDecode cfg v = .invalid ↔
      ¬ (cfg.db0.lo ≤ v.toNat ∧ v.toNat ≤ cfg.db0.hi) ∧ ¬ (cfg.db1.lo ≤ v.toNat ∧ v.toNat ≤ cfg.db1.hi)) ∧
    (Config.default.db0 = ⟨15, 35⟩ ∧ Config.default.db1 = ⟨55, 85⟩ ∧ Config.legacy.db0 = ⟨15, 35⟩ ∧
      Config.legacy.db1 = ⟨60, 80⟩ ∧ bitDecode Config.default 45#8 = .invalid)

/-- R109: at the default configuration every data pulse that passes Validate decodes, and DECODE never reports DECODE_INVALID; in
the legacy configuration a data pulse of 55 to 59 or 81 to 85 passes its band and does not decode. -/
def Obligations.DefaultConfigurationNeverReportsDecodeInvalid : Prop :=
  (∀ (s t : State), s.cfg = Config.default → s.core.faulted = false → s.core.attached = false →
    exec .decode s = .next t → t.core.resCode ≠ 5#3) ∧
  (∀ (buf : PulseBuffer) (i : Index) (m : Byte), validate Config.default buf = .pass →
    assemble Config.default buf ≠ .di i m) ∧
  (∀ v : Byte, (55 ≤ v.toNat ∧ v.toNat ≤ 59) ∨ (81 ≤ v.toNat ∧ v.toNat ≤ 85) →
    pulseOk Config.legacy 4 v = true ∧ bitDecode Config.legacy v = .invalid) ∧
  (∀ (s : State) (j : Fin 40), s.cfg = Config.legacy → s.core.faulted = false → s.core.attached = false →
    s.core.running = false → s.core.finished = true → s.core.error = false → validate Config.legacy s.core.buf = .pass →
    ((55 ≤ s.core.buf[4 + 2 * j.val].toNat ∧ s.core.buf[4 + 2 * j.val].toNat ≤ 59) ∨
      (81 ≤ s.core.buf[4 + 2 * j.val].toNat ∧ s.core.buf[4 + 2 * j.val].toNat ≤ 85)) →
    ∃ t, exec .decode s = .next t ∧ t.core.resCode = 5#3)

/-- R113, R45: Assemble yields a frame exactly when payload bit j, from the data pulse at index 4 + 2j, stands at bit
7 − (j mod 8) of byte j div 8, for every j. -/
def Obligations.PayloadBitsLandMostSignificantFirst : Prop :=
  ∀ (cfg : Config) (buf : PulseBuffer) (b : Frame),
    assemble cfg buf = .bytes b ↔
      ∀ j : Fin 40, bitDecode cfg buf[4 + 2 * j.val] = if b[j.val / 8].getLsbD (7 - j.val % 8) then .one else .zero

/-- R116: assembly fails exactly at the first data pulse, in arrival order, that decodes to INVALID, and reports it. -/
def Obligations.AssemblyFailsAtTheFirstInvalidPulse : Prop :=
  ∀ (cfg : Config) (buf : PulseBuffer) (idx : Index) (m : Byte),
    assemble cfg buf = .di idx m ↔
      ∃ j : Fin 40, idx.toNat = 4 + 2 * j.val ∧ m = buf[4 + 2 * j.val] ∧ bitDecode cfg m = .invalid ∧
        ∀ k : Fin 40, k.val < j.val → bitDecode cfg buf[4 + 2 * k.val] ≠ .invalid

/-- R114: the Assembler reads only the data pulses. -/
def Obligations.AssemblerReadsOnlyDataPulses : Prop :=
  ∀ (cfg : Config) (buf buf' : PulseBuffer), (∀ j : Fin 40, buf[4 + 2 * j.val] = buf'[4 + 2 * j.val]) →
    assemble cfg buf = assemble cfg buf'

/-- R118, R119: the checksum is the sum of the four data bytes modulo 256. -/
def Obligations.ChecksumIsTheSumModulo256 : Prop :=
  (∀ b0 b1 b2 b3 b4 : Byte, checksumOk #v[b0, b1, b2, b3, b4] = true ↔ b0 + b1 + b2 + b3 = b4) ∧
  (∀ b0 b1 b2 b3 b4 : Byte, checksumOk #v[b0, b1, b2, b3, b4] = true ↔
    (b0.toNat + b1.toNat + b2.toNat + b3.toNat) % 256 = b4.toNat) ∧
  checksumOk #v[0xFF#8, 0xFF#8, 0xFF#8, 0xFF#8, 0xFC#8] = true ∧ checksumOk #v[0x80#8, 0x80#8, 0x00#8, 0x00#8, 0x00#8] = true ∧
  checksumOk #v[0x80#8, 0x80#8, 0x00#8, 0x00#8, 0x01#8] = false

/-- R121: DECODE while attached faults and evaluates nothing; detached it is always performed, also when never armed. -/
def Obligations.DecodeWhileAttachedFaults : Prop :=
  (∀ s : State, s.core.faulted = false → s.core.attached = true →
    exec .decode s = .next { s with core := { s.core with faulted := true, faultCause := 3#2 }, out := none }) ∧
  (∀ s : State, s.core.faulted = false → s.core.attached = false →
    ∃ t, exec .decode s = .next t ∧ t.core.faulted = false ∧ t.core.resCode ≠ 0#3) ∧
  (∃ t, exec .decode State.reset = .next t ∧ t.core.resCode = 2#3)

/-- R122, R123: DECODE on a detached core writes exactly the first outcome that applies, with its index, value and frame. -/
def Obligations.DecodeWritesTheFirstOutcomeThatApplies : Prop :=
  ∀ s : State, s.core.faulted = false → s.core.attached = false →
    let writes := fun (code : BitVec 3) (i : Index) (m : Byte) (b : Frame) =>
      exec .decode s = .next { s with
        core := { s.core with resCode := code, violIndex := i, violMeas := m, frame := b }, out := none }
    (s.core.running = true ∨ s.core.finished = false → writes 2#3 0#7 0#8 (Vector.replicate 5 0#8)) ∧
    (s.core.running = false → s.core.finished = true → s.core.error = true → writes 3#3 0#7 0#8 (Vector.replicate 5 0#8)) ∧
    (s.core.running = false → s.core.finished = true → s.core.error = false →
      (∀ i m, validate s.cfg s.core.buf = .sv i m → writes 4#3 i m (Vector.replicate 5 0#8)) ∧
      (validate s.cfg s.core.buf = .pass →
        (∀ i m, assemble s.cfg s.core.buf = .di i m → writes 5#3 i m (Vector.replicate 5 0#8)) ∧
        (∀ b, assemble s.cfg s.core.buf = .bytes b →
          (checksumOk b = true → writes 1#3 0#7 0#8 b) ∧ (checksumOk b = false → writes 6#3 0#7 0#8 (Vector.replicate 5 0#8)))))

/-- R124: OK is written only for a full, error-free capture whose pulses validate, decode and pass the checksum. -/
def Obligations.OkOnlyFromACleanCapture : Prop :=
  ∀ s t : State, s.core.faulted = false → s.core.attached = false → exec .decode s = .next t → t.core.resCode = 1#3 →
    s.core.finished = true ∧ s.core.running = false ∧ s.core.error = false ∧ validate s.cfg s.core.buf = .pass ∧
    (∀ j : Fin 40, bitDecode s.cfg s.core.buf[4 + 2 * j.val] ≠ .invalid) ∧
    assemble s.cfg s.core.buf = .bytes t.core.frame ∧ checksumOk t.core.frame = true

/-- R125: DECODE leaves the capture alone, and is idempotent: with no ARM, EDGE or RESET in between, a second DECODE leaves the
same values in the result registers. -/
def Obligations.DecodeIsIdempotentOnAClosedCapture : Prop :=
  (∀ s t : State, exec .decode s = .next t →
    t.core.buf = s.core.buf ∧ t.core.cursor = s.core.cursor ∧ t.core.running = s.core.running ∧
    t.core.finished = s.core.finished ∧ t.core.error = s.core.error ∧ t.core.ref = s.core.ref ∧
    t.core.attached = s.core.attached) ∧
  (∀ (s t u v : State) (ws : List TWord), s.core.faulted = false → s.core.attached = false →
    exec .decode s = .next t →
    (∀ w ∈ ws, ¬ IsEdgeWord w ∧ decode w ≠ .legal .arm ∧ decode w ≠ .legal .reset) →
    performs ws t = .next u → exec .decode u = .next v →
    v.core.resCode = t.core.resCode ∧ v.core.violIndex = t.core.violIndex ∧ v.core.violMeas = t.core.violMeas ∧
    v.core.frame = t.core.frame)

/-- R53: between a CLOSE and the next ARM (or RESET) no word changes the capture, EDGEs included, and an unfaulted DECODE gives the
same outcome throughout. -/
def Obligations.ClosedCaptureIsStable : Prop :=
  ∀ (s t : State) (ws : List TWord), s.core.attached = false →
    (∀ w ∈ ws, decode w ≠ .legal .arm ∧ decode w ≠ .legal .reset) → performs ws s = .next t →
    t.core.attached = false ∧ t.core.buf = s.core.buf ∧ t.core.cursor = s.core.cursor ∧
    t.core.running = s.core.running ∧ t.core.finished = s.core.finished ∧ t.core.error = s.core.error ∧
    t.core.ref = s.core.ref ∧ evaluate t.cfg t.core = evaluate s.cfg s.core

/-- R126: the round trip. From WAIT_FIRST at the default configuration, 84 EDGEs whose 83 differences lie in the bands the frame
asks for, then CLOSE and DECODE, give OK and that frame. -/
def Obligations.RoundTripRecoversTheFrame : Prop :=
  ∀ (s : State) (b : Frame) (ts : Vector Tick 84) (lv : Vector (BitVec 1) 84),
    s.Inv → s.cfg = Config.default → s.core.phase = .waitFirst →
    (b[0].toNat + b[1].toNat + b[2].toNat + b[3].toNat) % 256 = b[4].toNat →
    11 ≤ (ts[1] - ts[0]).toNat ∧ (ts[1] - ts[0]).toNat ≤ 50 →
    65 ≤ (ts[2] - ts[1]).toNat ∧ (ts[2] - ts[1]).toNat ≤ 95 →
    65 ≤ (ts[3] - ts[2]).toNat ∧ (ts[3] - ts[2]).toNat ≤ 95 →
    (∀ j : Fin 40, 40 ≤ (ts[4 + 2 * j.val] - ts[3 + 2 * j.val]).toNat ∧
      (ts[4 + 2 * j.val] - ts[3 + 2 * j.val]).toNat ≤ 60) →
    (∀ j : Fin 40, if b[j.val / 8].getLsbD (7 - j.val % 8)
      then 55 ≤ (ts[5 + 2 * j.val] - ts[4 + 2 * j.val]).toNat ∧ (ts[5 + 2 * j.val] - ts[4 + 2 * j.val]).toNat ≤ 85
      else 15 ≤ (ts[5 + 2 * j.val] - ts[4 + 2 * j.val]).toNat ∧ (ts[5 + 2 * j.val] - ts[4 + 2 * j.val]).toNat ≤ 35) →
    ∃ t, performs (((List.finRange 84).map fun n => encode (.edge ts[n] lv[n])) ++ [encode .close, encode .decode]) s
        = .next t ∧
      t.core.resCode = 1#3 ∧ t.core.frame = b

/-- R127: the result registers carry the whole outcome: reading them back gives it. -/
def Obligations.ResultRegistersCarryTheOutcome : Prop :=
  (∀ (o : Reading) (c : CoreState), (c.writeResult o).result = some o) ∧
  (∀ c : CoreState, c.resCode = 0#3 → c.result = none)

/-- R152: the durations of a capture that passes Validate at the default configuration span between 2341 and 6040 ticks. -/
def Obligations.ValidCaptureSpan : Prop :=
  ∀ buf : PulseBuffer, validate Config.default buf = .pass →
    (∀ i : Fin 83, 10 < buf[i.val].toNat ∧ buf[i.val].toNat < 100) →
    2341 ≤ (buf.toList.map BitVec.toNat).sum ∧ (buf.toList.map BitVec.toNat).sum ≤ 6040

/-! ### Faults (spec/60_exceptions.md) -/

/-- R131: each fault cause, raised by one kind of transaction in the state given, and by nothing else. -/
def Obligations.FaultCausesAndTheirConditions : Prop :=
  ∀ (w : TWord) (s t : State), s.core.faulted = false → perform w s = .next t →
    (t.core.faulted = true ↔
      (∃ why, decode w = .illegal why) ∨ (decode w = .legal .arm ∧ s.core.attached = true) ∨
      (decode w = .legal .decode ∧ s.core.attached = true)) ∧
    ((∃ why, decode w = .illegal why) → t.core.faultCause = 1#2) ∧
    (decode w = .legal .arm → s.core.attached = true → t.core.faultCause = 2#2) ∧
    (decode w = .legal .decode → s.core.attached = true → t.core.faultCause = 3#2)

/-- R132: faults are precise: the state after the fault is the state before plus the two fault fields; the first cause is kept. -/
def Obligations.FaultsArePrecise : Prop :=
  (∀ (w : TWord) (s t : State), s.core.faulted = false → perform w s = .next t → t.core.faulted = true →
    t = { s with core := { s.core with faulted := true, faultCause := t.core.faultCause }, out := none } ∧
    t.core.faultCause ≠ 0#2) ∧
  (∀ (w : TWord) (s t : State), s.core.faulted = true → decode w ≠ .legal .reset → perform w s = .next t →
    t.core.faulted = true ∧ t.core.faultCause = s.core.faultCause)

/-- R133: while faulted, every word except RESET and READ changes nothing; READ still returns the register space. -/
def Obligations.OnlyResetAndReadActWhileFaulted : Prop :=
  (∀ (w : TWord) (s : State), s.core.faulted = true → decode w ≠ .legal .reset →
    (∀ addr, decode w ≠ .legal (.read addr)) → perform w s = .next { s with out := none }) ∧
  (∀ (s : State) (addr : Byte), s.core.faulted = true →
    perform (encode (.read addr)) s = .next { s with out := some (memRead s.core addr) })

/-! ### The host's procedure (spec/70_reset_and_hazards.md) -/

/-- From DETACHED, the words of one attemptReading (R148, with R151's CLOSE) end with no fault latched, detached and with a result,
whatever the line delivers in between and wherever ARM stands in the handshake. ARM_POINT as a position among the handshake's
actions, and the reads for each RES_CODE, are the model's choice (DESIGN CHOICE, log entries 12 and 16). The RES_CODE here is any
value; `AttemptReadingReturnsTheResult` takes it from the core. -/
def Obligations.AttemptReadingNeverFaults : Prop :=
  ∀ (p : HostParams) (code : BitVec 3) (s : State) (edges ws : List TWord), s.core.phase = .detached →
    (∀ w ∈ edges, IsEdgeWord w) → Interleave edges (hostWords (attemptActions p code)) ws →
    ∃ t, performs ws s = .next t ∧ t.Safe ∧ t.core.phase = .detached ∧ t.core.resCode ≠ 0#3

/-- From DETACHED (R148's step 0), `attemptReading` returns the Result that R127 gives the result registers, with RES_CODE read from
the core: every field of the Result is the register's, the core is left detached and without a fault, and the words performed are an
interleaving of the line's with the host's for that RES_CODE. ARM_POINT as a position, the reads for each code and the Result for
CAPTURE_ERROR are the model's choice (DESIGN CHOICE, log entries 12, 16 and 17). -/
def Obligations.AttemptReadingReturnsTheResult : Prop :=
  ∀ (p : HostParams) (s : State) (line : List (List TWord)), s.core.phase = .detached →
    (∀ ws ∈ line, ∀ w ∈ ws, IsEdgeWord w) →
    ∃ t r, (attemptReading p).run line s = .next (t, some r) ∧ t.Safe ∧ t.core.phase = .detached ∧
      ((t.core.resCode = 1#3 ∧ r = .ok t.core.frame) ∨ (t.core.resCode = 2#3 ∧ r = .timeout) ∨
        (t.core.resCode = 3#3 ∧ r = .captureError) ∨
        (t.core.resCode = 4#3 ∧ r = .structuralViolation t.core.violIndex t.core.violMeas) ∨
        (t.core.resCode = 5#3 ∧ r = .decodeInvalid) ∨ (t.core.resCode = 6#3 ∧ r = .checksumMismatch)) ∧
      ∃ ws, Interleave line.flatten (hostWords (attemptActions p t.core.resCode)) ws ∧ performs ws s = .next t

/-- The converse: every interleaving of EDGE words of the line with the words of one attemptReading from DETACHED, for the RES_CODE
it leaves, is what `attemptReading` does under some delivery of the line's words, and it returns a Result (R7, R148). ARM_POINT as a
position, the reads for each code and, where the run leaves RES_CODE 3, that CAPTURE_ERROR has a Result at all are the model's choice
(DESIGN CHOICE, log entries 12, 16 and 17). -/
def Obligations.EveryInterleavedAttemptIsARun : Prop :=
  ∀ (p : HostParams) (s t : State) (edges ws : List TWord), s.core.phase = .detached → (∀ w ∈ edges, IsEdgeWord w) →
    Interleave edges (hostWords (attemptActions p t.core.resCode)) ws → performs ws s = .next t →
    ∃ (line : List (List TWord)) (r : ReadingResult), line.flatten = edges ∧ (attemptReading p).run line s = .next (t, some r)
end

