-- ==== Sys2Proof/Laws/Decode.lean ====
section
/-! SUPPORT. The three formats and their fields as numbers, and what the decoder reads from them. -/

namespace Sys2Proof

/-! ### Words and fields as numbers -/

theorem opField_toNat (t : TWord) : (opField t).toNat = t.toNat / 2 ^ 36 := by
  simp only [opField, BitVec.extractLsb'_toNat, Nat.shiftRight_eq_div_pow]; omega

theorem zeroFieldC_toNat (t : TWord) : (zeroFieldC t).toNat = t.toNat % 2 ^ 36 := by
  simp only [zeroFieldC, BitVec.extractLsb'_toNat, Nat.shiftRight_eq_div_pow]; omega

theorem zeroFieldE_toNat (t : TWord) : (zeroFieldE t).toNat = t.toNat / 2 ^ 33 % 2 ^ 3 := by
  simp only [zeroFieldE, BitVec.extractLsb'_toNat, Nat.shiftRight_eq_div_pow]

theorem zeroFieldR_toNat (t : TWord) : (zeroFieldR t).toNat = t.toNat / 2 ^ 8 % 2 ^ 28 := by
  simp only [zeroFieldR, BitVec.extractLsb'_toNat, Nat.shiftRight_eq_div_pow]

theorem lvField_toNat (t : TWord) : (lvField t).toNat = t.toNat / 2 ^ 32 % 2 := by
  simp only [lvField, BitVec.extractLsb'_toNat, Nat.shiftRight_eq_div_pow]

theorem tsField_toNat (t : TWord) : (tsField t).toNat = t.toNat % 2 ^ 32 := by
  simp only [tsField, BitVec.extractLsb'_toNat, Nat.shiftRight_eq_div_pow]; omega

theorem addrField_toNat (t : TWord) : (addrField t).toNat = t.toNat % 2 ^ 8 := by
  simp only [addrField, BitVec.extractLsb'_toNat, Nat.shiftRight_eq_div_pow]; omega

/-- Concatenation as arithmetic. -/
theorem append_toNat {n m : Nat} (x : BitVec n) (y : BitVec m) : (x ++ y).toNat = x.toNat * 2 ^ m + y.toNat := by
  rw [BitVec.toNat_append, Nat.shiftLeft_eq, Nat.mul_comm, Nat.two_pow_add_eq_or_of_lt y.isLt]

theorem formatC_toNat (op : BitVec 4) : (formatC op).toNat = op.toNat * 2 ^ 36 := by
  have h := append_toNat op 0#36
  have e : (formatC op).toNat = (op ++ 0#36).toNat := rfl
  rw [e, h]; simp only [BitVec.toNat_ofNat]; omega

theorem formatE_toNat (lv : BitVec 1) (ts : Tick) :
    (formatE lv ts).toNat = 0x4 * 2 ^ 36 + lv.toNat * 2 ^ 32 + ts.toNat := by
  have h := append_toNat (0x4#4 ++ 0#3 ++ lv) ts
  rw [append_toNat (0x4#4 ++ 0#3) lv, append_toNat 0x4#4 0#3] at h
  have e : (formatE lv ts).toNat = (0x4#4 ++ 0#3 ++ lv ++ ts).toNat := rfl
  rw [e, h]; simp only [BitVec.toNat_ofNat]; omega

theorem formatR_toNat (addr : Byte) : (formatR addr).toNat = 0x5 * 2 ^ 36 + addr.toNat := by
  have h := append_toNat (0x5#4 ++ 0#28) addr
  rw [append_toNat 0x5#4 0#28] at h
  have e : (formatR addr).toNat = (0x5#4 ++ 0#28 ++ addr).toNat := rfl
  rw [e, h]; simp only [BitVec.toNat_ofNat]; omega

/-! ### The fields of the three formats -/

@[simp] theorem opField_formatC (op : BitVec 4) : opField (formatC op) = op :=
  BitVec.eq_of_toNat_eq (by rw [opField_toNat, formatC_toNat]; omega)

@[simp] theorem zeroFieldC_formatC (op : BitVec 4) : zeroFieldC (formatC op) = 0#36 :=
  BitVec.eq_of_toNat_eq (by rw [zeroFieldC_toNat, formatC_toNat]; simp)

@[simp] theorem opField_formatE (lv : BitVec 1) (ts : Tick) : opField (formatE lv ts) = 0x4#4 :=
  BitVec.eq_of_toNat_eq (by rw [opField_toNat, formatE_toNat]; change _ = 4; omega)

@[simp] theorem zeroFieldE_formatE (lv : BitVec 1) (ts : Tick) : zeroFieldE (formatE lv ts) = 0#3 :=
  BitVec.eq_of_toNat_eq (by rw [zeroFieldE_toNat, formatE_toNat]; change _ = 0; omega)

@[simp] theorem lvField_formatE (lv : BitVec 1) (ts : Tick) : lvField (formatE lv ts) = lv :=
  BitVec.eq_of_toNat_eq (by rw [lvField_toNat, formatE_toNat]; omega)

@[simp] theorem tsField_formatE (lv : BitVec 1) (ts : Tick) : tsField (formatE lv ts) = ts :=
  BitVec.eq_of_toNat_eq (by rw [tsField_toNat, formatE_toNat]; omega)

@[simp] theorem opField_formatR (addr : Byte) : opField (formatR addr) = 0x5#4 :=
  BitVec.eq_of_toNat_eq (by rw [opField_toNat, formatR_toNat]; change _ = 5; omega)

@[simp] theorem zeroFieldR_formatR (addr : Byte) : zeroFieldR (formatR addr) = 0#28 :=
  BitVec.eq_of_toNat_eq (by rw [zeroFieldR_toNat, formatR_toNat]; change _ = 0; omega)

@[simp] theorem addrField_formatR (addr : Byte) : addrField (formatR addr) = addr :=
  BitVec.eq_of_toNat_eq (by rw [addrField_toNat, formatR_toNat]; omega)

/-! ### A word is put together from its fields -/

theorem eq_formatC {w : TWord} {op : BitVec 4} (hop : opField w = op) (h : zeroFieldC w = 0#36) : w = formatC op := by
  apply BitVec.eq_of_toNat_eq
  have h1 := opField_toNat w
  have h2 := zeroFieldC_toNat w
  rw [hop] at h1; rw [h] at h2; change 0 = _ at h2
  rw [formatC_toNat]; omega

theorem eq_formatE {w : TWord} (hop : opField w = 0x4#4) (h : zeroFieldE w = 0#3) : w = formatE (lvField w) (tsField w) := by
  apply BitVec.eq_of_toNat_eq
  have h1 := opField_toNat w
  have h2 := zeroFieldE_toNat w
  rw [hop] at h1; change 4 = _ at h1; rw [h] at h2; change 0 = _ at h2
  rw [formatE_toNat, lvField_toNat, tsField_toNat]; omega

theorem eq_formatR {w : TWord} (hop : opField w = 0x5#4) (h : zeroFieldR w = 0#28) : w = formatR (addrField w) := by
  apply BitVec.eq_of_toNat_eq
  have h1 := opField_toNat w
  have h2 := zeroFieldR_toNat w
  rw [hop] at h1; change 5 = _ at h1; rw [h] at h2; change 0 = _ at h2
  rw [formatR_toNat, addrField_toNat]; omega

end Sys2Proof
end

