-- ==== Sys2Proof/Laws/State.lean ====
section
/-! SUPPORT. What each named update of the state does to each field, and nothing else: one lemma a field, true by unfolding.
No later proof unfolds a record update. -/

namespace Sys2Proof.Machine

section onCore
variable (s : State) (f : CoreState → CoreState)
@[simp] theorem State.onCore_core : (s.onCore f).core = f s.core := rfl
@[simp] theorem State.onCore_cfg : (s.onCore f).cfg = s.cfg := rfl
@[simp] theorem State.onCore_line : (s.onCore f).line = s.line := rfl
@[simp] theorem State.onCore_host : (s.onCore f).host = s.host := rfl
@[simp] theorem State.onCore_merge : (s.onCore f).merge = s.merge := rfl
@[simp] theorem State.onCore_out : (s.onCore f).out = none := rfl
end onCore

section tookLine
variable (s : State) (ls : List TWord)
@[simp] theorem State.tookLine_core : (s.tookLine ls).core = s.core := rfl
@[simp] theorem State.tookLine_cfg : (s.tookLine ls).cfg = s.cfg := rfl
@[simp] theorem State.tookLine_line : (s.tookLine ls).line = ls := rfl
@[simp] theorem State.tookLine_host : (s.tookLine ls).host = s.host := rfl
@[simp] theorem State.tookLine_merge : (s.tookLine ls).merge = s.merge.tail := rfl
@[simp] theorem State.tookLine_out : (s.tookLine ls).out = s.out := rfl
end tookLine

section tookHost
variable (s : State) (hs : List TWord)
@[simp] theorem State.tookHost_core : (s.tookHost hs).core = s.core := rfl
@[simp] theorem State.tookHost_cfg : (s.tookHost hs).cfg = s.cfg := rfl
@[simp] theorem State.tookHost_line : (s.tookHost hs).line = s.line := rfl
@[simp] theorem State.tookHost_host : (s.tookHost hs).host = hs := rfl
@[simp] theorem State.tookHost_merge : (s.tookHost hs).merge = s.merge.tail := rfl
@[simp] theorem State.tookHost_out : (s.tookHost hs).out = s.out := rfl
end tookHost

section withFetchWord
variable (s : State) (n w : Nat)
@[simp] theorem State.withFetchWord_core : (s.withFetchWord n w).core = s.core := rfl
@[simp] theorem State.withFetchWord_cfg : (s.withFetchWord n w).cfg = s.cfg := rfl
@[simp] theorem State.withFetchWord_line : (s.withFetchWord n w).line = s.line := rfl
@[simp] theorem State.withFetchWord_host : (s.withFetchWord n w).host = BitVec.ofNat 40 w :: s.host := rfl
@[simp] theorem State.withFetchWord_merge : (s.withFetchWord n w).merge = .host :: s.merge := rfl
@[simp] theorem State.withFetchWord_out : (s.withFetchWord n w).out = s.out := rfl
end withFetchWord

section raiseFault
variable (f : FaultCause) (c : CoreState)
@[simp] theorem CoreState.raiseFault_buf : (c.raiseFault f).buf = c.buf := rfl
@[simp] theorem CoreState.raiseFault_cursor : (c.raiseFault f).cursor = c.cursor := rfl
@[simp] theorem CoreState.raiseFault_running : (c.raiseFault f).running = c.running := rfl
@[simp] theorem CoreState.raiseFault_finished : (c.raiseFault f).finished = c.finished := rfl
@[simp] theorem CoreState.raiseFault_error : (c.raiseFault f).error = c.error := rfl
@[simp] theorem CoreState.raiseFault_ref : (c.raiseFault f).ref = c.ref := rfl
@[simp] theorem CoreState.raiseFault_attached : (c.raiseFault f).attached = c.attached := rfl
@[simp] theorem CoreState.raiseFault_resCode : (c.raiseFault f).resCode = c.resCode := rfl
@[simp] theorem CoreState.raiseFault_violIndex : (c.raiseFault f).violIndex = c.violIndex := rfl
@[simp] theorem CoreState.raiseFault_violMeas : (c.raiseFault f).violMeas = c.violMeas := rfl
@[simp] theorem CoreState.raiseFault_frame : (c.raiseFault f).frame = c.frame := rfl
@[simp] theorem CoreState.raiseFault_faulted : (c.raiseFault f).faulted = true := rfl
@[simp] theorem CoreState.raiseFault_faultCause : (c.raiseFault f).faultCause = f.code := rfl
end raiseFault

section clearCapture
variable (c : CoreState)
@[simp] theorem CoreState.clearCapture_buf : (c.clearCapture).buf = Vector.replicate 83 0#8 := rfl
@[simp] theorem CoreState.clearCapture_cursor : (c.clearCapture).cursor = 0#7 := rfl
@[simp] theorem CoreState.clearCapture_running : (c.clearCapture).running = false := rfl
@[simp] theorem CoreState.clearCapture_finished : (c.clearCapture).finished = false := rfl
@[simp] theorem CoreState.clearCapture_error : (c.clearCapture).error = false := rfl
@[simp] theorem CoreState.clearCapture_ref : (c.clearCapture).ref = 0#32 := rfl
@[simp] theorem CoreState.clearCapture_attached : (c.clearCapture).attached = c.attached := rfl
@[simp] theorem CoreState.clearCapture_resCode : (c.clearCapture).resCode = c.resCode := rfl
@[simp] theorem CoreState.clearCapture_violIndex : (c.clearCapture).violIndex = c.violIndex := rfl
@[simp] theorem CoreState.clearCapture_violMeas : (c.clearCapture).violMeas = c.violMeas := rfl
@[simp] theorem CoreState.clearCapture_frame : (c.clearCapture).frame = c.frame := rfl
@[simp] theorem CoreState.clearCapture_faulted : (c.clearCapture).faulted = c.faulted := rfl
@[simp] theorem CoreState.clearCapture_faultCause : (c.clearCapture).faultCause = c.faultCause := rfl
end clearCapture

section clearResults
variable (c : CoreState)
@[simp] theorem CoreState.clearResults_buf : (c.clearResults).buf = c.buf := rfl
@[simp] theorem CoreState.clearResults_cursor : (c.clearResults).cursor = c.cursor := rfl
@[simp] theorem CoreState.clearResults_running : (c.clearResults).running = c.running := rfl
@[simp] theorem CoreState.clearResults_finished : (c.clearResults).finished = c.finished := rfl
@[simp] theorem CoreState.clearResults_error : (c.clearResults).error = c.error := rfl
@[simp] theorem CoreState.clearResults_ref : (c.clearResults).ref = c.ref := rfl
@[simp] theorem CoreState.clearResults_attached : (c.clearResults).attached = c.attached := rfl
@[simp] theorem CoreState.clearResults_resCode : (c.clearResults).resCode = 0#3 := rfl
@[simp] theorem CoreState.clearResults_violIndex : (c.clearResults).violIndex = 0#7 := rfl
@[simp] theorem CoreState.clearResults_violMeas : (c.clearResults).violMeas = 0#8 := rfl
@[simp] theorem CoreState.clearResults_frame : (c.clearResults).frame = Vector.replicate 5 0#8 := rfl
@[simp] theorem CoreState.clearResults_faulted : (c.clearResults).faulted = c.faulted := rfl
@[simp] theorem CoreState.clearResults_faultCause : (c.clearResults).faultCause = c.faultCause := rfl
end clearResults

section arm
variable (c : CoreState)
@[simp] theorem CoreState.arm_buf : (c.arm).buf = Vector.replicate 83 0#8 := rfl
@[simp] theorem CoreState.arm_cursor : (c.arm).cursor = 0#7 := rfl
@[simp] theorem CoreState.arm_running : (c.arm).running = false := rfl
@[simp] theorem CoreState.arm_finished : (c.arm).finished = false := rfl
@[simp] theorem CoreState.arm_error : (c.arm).error = false := rfl
@[simp] theorem CoreState.arm_ref : (c.arm).ref = 0#32 := rfl
@[simp] theorem CoreState.arm_attached : (c.arm).attached = true := rfl
@[simp] theorem CoreState.arm_resCode : (c.arm).resCode = 0#3 := rfl
@[simp] theorem CoreState.arm_violIndex : (c.arm).violIndex = 0#7 := rfl
@[simp] theorem CoreState.arm_violMeas : (c.arm).violMeas = 0#8 := rfl
@[simp] theorem CoreState.arm_frame : (c.arm).frame = Vector.replicate 5 0#8 := rfl
@[simp] theorem CoreState.arm_faulted : (c.arm).faulted = c.faulted := rfl
@[simp] theorem CoreState.arm_faultCause : (c.arm).faultCause = c.faultCause := rfl
end arm

section appendPulse
variable (ts d : Tick) (c : CoreState)
@[simp] theorem CoreState.appendPulse_buf : (c.appendPulse ts d).buf = c.buf.setIfInBounds c.cursor.toNat (storedPulse d) := rfl
@[simp] theorem CoreState.appendPulse_cursor : (c.appendPulse ts d).cursor = c.cursor + 1#7 := rfl
@[simp] theorem CoreState.appendPulse_running : (c.appendPulse ts d).running = if c.cursor + 1#7 = 83#7 then false else c.running := rfl
@[simp] theorem CoreState.appendPulse_finished : (c.appendPulse ts d).finished = if c.cursor + 1#7 = 83#7 then true else c.finished := rfl
@[simp] theorem CoreState.appendPulse_error : (c.appendPulse ts d).error = c.error := rfl
@[simp] theorem CoreState.appendPulse_ref : (c.appendPulse ts d).ref = ts := rfl
@[simp] theorem CoreState.appendPulse_attached : (c.appendPulse ts d).attached = c.attached := rfl
@[simp] theorem CoreState.appendPulse_resCode : (c.appendPulse ts d).resCode = c.resCode := rfl
@[simp] theorem CoreState.appendPulse_violIndex : (c.appendPulse ts d).violIndex = c.violIndex := rfl
@[simp] theorem CoreState.appendPulse_violMeas : (c.appendPulse ts d).violMeas = c.violMeas := rfl
@[simp] theorem CoreState.appendPulse_frame : (c.appendPulse ts d).frame = c.frame := rfl
@[simp] theorem CoreState.appendPulse_faulted : (c.appendPulse ts d).faulted = c.faulted := rfl
@[simp] theorem CoreState.appendPulse_faultCause : (c.appendPulse ts d).faultCause = c.faultCause := rfl
end appendPulse

section writeResult
variable (o : Reading) (c : CoreState)
@[simp] theorem CoreState.writeResult_buf : (c.writeResult o).buf = c.buf := rfl
@[simp] theorem CoreState.writeResult_cursor : (c.writeResult o).cursor = c.cursor := rfl
@[simp] theorem CoreState.writeResult_running : (c.writeResult o).running = c.running := rfl
@[simp] theorem CoreState.writeResult_finished : (c.writeResult o).finished = c.finished := rfl
@[simp] theorem CoreState.writeResult_error : (c.writeResult o).error = c.error := rfl
@[simp] theorem CoreState.writeResult_ref : (c.writeResult o).ref = c.ref := rfl
@[simp] theorem CoreState.writeResult_attached : (c.writeResult o).attached = c.attached := rfl
@[simp] theorem CoreState.writeResult_resCode : (c.writeResult o).resCode = o.code := rfl
@[simp] theorem CoreState.writeResult_violIndex : (c.writeResult o).violIndex = o.index := rfl
@[simp] theorem CoreState.writeResult_violMeas : (c.writeResult o).violMeas = o.measured := rfl
@[simp] theorem CoreState.writeResult_frame : (c.writeResult o).frame = o.bytes := rfl
@[simp] theorem CoreState.writeResult_faulted : (c.writeResult o).faulted = c.faulted := rfl
@[simp] theorem CoreState.writeResult_faultCause : (c.writeResult o).faultCause = c.faultCause := rfl
end writeResult

section reset
@[simp] theorem CoreState.reset_buf : CoreState.reset.buf = Vector.replicate 83 0#8 := rfl
@[simp] theorem CoreState.reset_cursor : CoreState.reset.cursor = 0#7 := rfl
@[simp] theorem CoreState.reset_running : CoreState.reset.running = false := rfl
@[simp] theorem CoreState.reset_finished : CoreState.reset.finished = false := rfl
@[simp] theorem CoreState.reset_error : CoreState.reset.error = false := rfl
@[simp] theorem CoreState.reset_ref : CoreState.reset.ref = 0#32 := rfl
@[simp] theorem CoreState.reset_attached : CoreState.reset.attached = false := rfl
@[simp] theorem CoreState.reset_resCode : CoreState.reset.resCode = 0#3 := rfl
@[simp] theorem CoreState.reset_violIndex : CoreState.reset.violIndex = 0#7 := rfl
@[simp] theorem CoreState.reset_violMeas : CoreState.reset.violMeas = 0#8 := rfl
@[simp] theorem CoreState.reset_frame : CoreState.reset.frame = Vector.replicate 5 0#8 := rfl
@[simp] theorem CoreState.reset_faulted : CoreState.reset.faulted = false := rfl
@[simp] theorem CoreState.reset_faultCause : CoreState.reset.faultCause = 0#2 := rfl
@[simp] theorem State.reset_core : State.reset.core = CoreState.reset := rfl
@[simp] theorem State.reset_cfg : State.reset.cfg = Config.default := rfl
end reset

end Sys2Proof.Machine
end

