-- ==== Sys2Proof/Laws/Ops.lean ====
section
/-! SUPPORT. One lemma per shared operation that says everything it can do: the fault gate, reading the register space, and
delivering the next word. -/

namespace Sys2Proof.Machine

/-! ### The fault gate -/

@[simp] theorem gated_of_unfaulted (f : CoreState → CoreState) {s : State} (h : s.core.faulted = false) :
    gated f s = .next { s with core := f s.core, out := none } := by
  simp [gated, State.onCore, h]

@[simp] theorem gated_of_faulted (f : CoreState → CoreState) {s : State} (h : s.core.faulted = true) :
    gated f s = .next { s with out := none } := by
  simp [gated, State.onCore, h]

/-- Everything a gated transaction can do. -/
theorem gated_cases {f : CoreState → CoreState} {s t : State} (h : gated f s = .next t) :
    (s.core.faulted = true ∧ t = { s with out := none }) ∨
    (s.core.faulted = false ∧ t = { s with core := f s.core, out := none }) := by
  cases hf : s.core.faulted
  · rw [gated_of_unfaulted f hf] at h
    exact .inr ⟨rfl, (Host.Outcome.next.inj h).symm⟩
  · rw [gated_of_faulted f hf] at h
    exact .inl ⟨rfl, (Host.Outcome.next.inj h).symm⟩

/-! ### The register space (R43) -/

theorem memRead_pulse (c : CoreState) {addr : Byte} (h : addr.toNat ≤ 0x52) : memRead c addr = c.buf[addr.toNat] := by
  unfold memRead; rw [dif_pos h]

theorem memRead_status (c : CoreState) : memRead c 0x60#8 = c.statusByte := rfl
theorem memRead_cursor (c : CoreState) : memRead c 0x61#8 = c.cursorByte := rfl
theorem memRead_faultCause (c : CoreState) : memRead c 0x62#8 = c.faultCauseByte := rfl
theorem memRead_resCode (c : CoreState) : memRead c 0x70#8 = c.resCodeByte := rfl
theorem memRead_violIndex (c : CoreState) : memRead c 0x71#8 = c.violIndexByte := rfl
theorem memRead_violMeas (c : CoreState) : memRead c 0x72#8 = c.violMeas := rfl

theorem memRead_frame (c : CoreState) (k : Fin 5) : memRead c (BitVec.ofNat 8 (0x73 + k.val)) = c.frame[k.val] := by
  have hk := k.isLt
  have e : (BitVec.ofNat 8 (0x73 + k.val)).toNat = 0x73 + k.val := by rw [BitVec.toNat_ofNat]; omega
  have h1 : BitVec.ofNat 8 (0x73 + k.val) ≠ 0x60#8 := by
    intro h; have := congrArg BitVec.toNat h; rw [e] at this; change _ = 96 at this; omega
  have h2 : BitVec.ofNat 8 (0x73 + k.val) ≠ 0x61#8 := by
    intro h; have := congrArg BitVec.toNat h; rw [e] at this; change _ = 97 at this; omega
  have h3 : BitVec.ofNat 8 (0x73 + k.val) ≠ 0x62#8 := by
    intro h; have := congrArg BitVec.toNat h; rw [e] at this; change _ = 98 at this; omega
  have h4 : BitVec.ofNat 8 (0x73 + k.val) ≠ 0x70#8 := by
    intro h; have := congrArg BitVec.toNat h; rw [e] at this; change _ = 112 at this; omega
  have h5 : BitVec.ofNat 8 (0x73 + k.val) ≠ 0x71#8 := by
    intro h; have := congrArg BitVec.toNat h; rw [e] at this; change _ = 113 at this; omega
  have h6 : BitVec.ofNat 8 (0x73 + k.val) ≠ 0x72#8 := by
    intro h; have := congrArg BitVec.toNat h; rw [e] at this; change _ = 114 at this; omega
  unfold memRead
  rw [dif_neg (by omega), if_neg h1, if_neg h2, if_neg h3, if_neg h4, if_neg h5, if_neg h6, dif_pos (by omega)]
  simp only [e, Nat.add_sub_cancel_left]

/-- A reserved address reads 0x00 (R42). -/
theorem memRead_reserved (c : CoreState) {addr : Byte}
    (h : (0x53 ≤ addr.toNat ∧ addr.toNat ≤ 0x5F) ∨ (0x63 ≤ addr.toNat ∧ addr.toNat ≤ 0x6F) ∨ 0x78 ≤ addr.toNat) :
    memRead c addr = 0x00#8 := by
  have h1 : addr ≠ 0x60#8 := by rintro rfl; revert h; decide
  have h2 : addr ≠ 0x61#8 := by rintro rfl; revert h; decide
  have h3 : addr ≠ 0x62#8 := by rintro rfl; revert h; decide
  have h4 : addr ≠ 0x70#8 := by rintro rfl; revert h; decide
  have h5 : addr ≠ 0x71#8 := by rintro rfl; revert h; decide
  have h6 : addr ≠ 0x72#8 := by rintro rfl; revert h; decide
  unfold memRead
  rw [dif_neg (by omega), if_neg h1, if_neg h2, if_neg h3, if_neg h4, if_neg h5, if_neg h6, dif_neg (by omega)]

/-- READ sees the buffer, the three control registers and the result registers, and nothing else (R41). -/
theorem memRead_congr {c c' : CoreState} {addr : Byte}
    (hbuf : ∀ h : addr.toNat ≤ 0x52, c.buf[addr.toNat] = c'.buf[addr.toNat])
    (hstatus : addr = 0x60#8 → c.statusByte = c'.statusByte) (hcursor : addr = 0x61#8 → c.cursor = c'.cursor)
    (hcause : c.faultCause = c'.faultCause) (hcode : c.resCode = c'.resCode) (hindex : c.violIndex = c'.violIndex)
    (hmeas : c.violMeas = c'.violMeas) (hframe : c.frame = c'.frame) : memRead c addr = memRead c' addr := by
  unfold memRead
  split
  · exact hbuf ‹_›
  · split
    · exact hstatus ‹_›
    · split
      · simp [CoreState.cursorByte, hcursor ‹_›]
      · simp [CoreState.faultCauseByte, CoreState.resCodeByte, CoreState.violIndexByte, hcause, hcode, hindex, hmeas,
          hframe]

/-! ### Delivering the next word (R7) -/

/-- Everything a delivery can do: the head of one agent's stream is taken, and the rest of the state stays. -/
theorem nextWord_cases {s s' : State} {w : TWord} (h : nextWord s = some (w, s')) :
    (∃ ls, s.line = w :: ls ∧ s' = s.tookLine ls) ∨ (∃ hs, s.host = w :: hs ∧ s' = s.tookHost hs) := by
  unfold nextWord at h
  split at h
  · cases h
  · cases h; exact .inl ⟨_, ‹_›, rfl⟩
  · cases h; exact .inr ⟨_, ‹_›, rfl⟩
  · split at h
    · cases h; exact .inl ⟨_, ‹_›, rfl⟩
    · cases h; exact .inr ⟨_, ‹_›, rfl⟩

/-- No word is delivered exactly when both streams are empty. -/
theorem nextWord_none {s : State} : nextWord s = none ↔ s.line = [] ∧ s.host = [] := by
  unfold nextWord
  split
  · simp_all
  · simp_all
  · simp_all
  · split <;> simp_all

/-- A delivery leaves the core, the configuration and the output alone. -/
theorem nextWord_frame {s s' : State} {w : TWord} (h : nextWord s = some (w, s')) :
    s'.core = s.core ∧ s'.cfg = s.cfg ∧ s'.out = s.out := by
  rcases nextWord_cases h with ⟨_, -, rfl⟩ | ⟨_, -, rfl⟩ <;> exact ⟨rfl, rfl, rfl⟩

/-- With the merge order naming the host, the host's word is taken. -/
theorem nextWord_host {s : State} {w : TWord} {hs : List TWord} {m : List Agent} (hh : s.host = w :: hs)
    (hm : s.merge = .host :: m) : nextWord s = some (w, s.tookHost hs) := by
  unfold nextWord
  split <;> simp_all [State.turn]

/-- With the merge order naming the line, the line's word is taken. -/
theorem nextWord_line {s : State} {w : TWord} {ls : List TWord} {m : List Agent} (hl : s.line = w :: ls)
    (hm : s.merge = .line :: m) : nextWord s = some (w, s.tookLine ls) := by
  unfold nextWord
  split <;> simp_all [State.turn]

theorem nextWord_withFetchWord (s : State) (n w : Nat) :
    nextWord (s.withFetchWord n w) = some (BitVec.ofNat 40 w, s) := by
  rw [nextWord_host (s := s.withFetchWord n w) rfl rfl]; rfl

end Sys2Proof.Machine
end

