-- ==== Sys2Proof/Laws/Exec.lean ====
section
/-! SUPPORT. The step and the meanings as pure functions of the core state: `coreStep` is the spec's `step(cfg, S, T)` (R15, R71)
without the machine around it. Claims over runs cite these lemmas and never unfold a meaning. -/

namespace Sys2Proof.Machine

/-- What a transaction that passes the gate does to the core state (R71). -/
def coreEffect (cfg : Config) (c : CoreState) : Decoded → CoreState
  | .legal .nop => c
  | .legal .arm => if c.attached then c.raiseFault .armWhileAttached else c.arm
  | .legal .close => { c with attached := false }
  | .legal .decode => if c.attached then c.raiseFault .decodeWhileAttached else c.writeResult (evaluate cfg c)
  | .legal (.edge ts _) => c.sampleEdge cfg ts
  | .legal (.read _) => c
  | .legal .reset => CoreState.reset
  | .illegal _ => c.raiseFault .illegalOp

/-- The gate of R71: only RESET passes it while faulted = T, and READ, which changes nothing. -/
def coreStep (cfg : Config) (c : CoreState) (d : Decoded) : CoreState :=
  if c.faulted ∧ d ≠ .legal .reset then c else coreEffect cfg c d

/-- The output of a transaction (R14, R15). -/
def stepOutput (c : CoreState) : Decoded → Option Byte
  | .legal (.read addr) => some (memRead c addr)
  | .legal .nop => none
  | .legal .arm => none
  | .legal .close => none
  | .legal .decode => none
  | .legal (.edge _ _) => none
  | .legal .reset => none
  | .illegal _ => none

/-- R15, R71: performing a word always answers a next state, and this is all it does. -/
theorem perform_eq (w : TWord) (s : State) :
    perform w s = .next { s with core := coreStep s.cfg s.core (decode w), out := stepOutput s.core (decode w) } := by
  unfold perform coreStep
  cases decode w with
  | illegal why => cases hf : s.core.faulted <;> simp [execIllegal, hf, coreEffect, stepOutput]
  | legal i =>
    cases i <;> cases hf : s.core.faulted <;>
      simp [exec, execNop, execArm, execClose, execDecode, execEdge, execRead, execReset, hf, coreEffect, stepOutput,
        State.onCore]

/-- The same of a transaction. -/
theorem exec_eq (i : Instr) (s : State) :
    exec i s = .next { s with core := coreStep s.cfg s.core (.legal i), out := stepOutput s.core (.legal i) } := by
  unfold coreStep
  cases i <;> cases hf : s.core.faulted <;>
    simp [exec, execNop, execArm, execClose, execDecode, execEdge, execRead, execReset, hf, coreEffect, stepOutput,
      State.onCore]

theorem perform_next {w : TWord} {s t : State} (h : perform w s = .next t) :
    t = { s with core := coreStep s.cfg s.core (decode w), out := stepOutput s.core (decode w) } := by
  rw [perform_eq] at h; exact (Host.Outcome.next.inj h).symm

theorem exec_next {i : Instr} {s t : State} (h : exec i s = .next t) :
    t = { s with core := coreStep s.cfg s.core (.legal i), out := stepOutput s.core (.legal i) } := by
  rw [exec_eq] at h; exact (Host.Outcome.next.inj h).symm

/-! ### Everything an EDGE can do (R85) -/

/-- The five cases of EDGE on the core: ignored, reference set, appended, appended as the 83rd, error. -/
theorem sampleEdge_cases (cfg : Config) (ts : Tick) (c : CoreState) :
    (c.sampleEdge cfg ts = c ∧
      (c.attached = false ∨ c.finished = true ∨ (cfg.errPolicy = .abort ∧ c.error = true))) ∨
    (c.attached = true ∧ c.finished = false ∧ ¬ (cfg.errPolicy = .abort ∧ c.error = true) ∧
      ((c.running = false ∧ c.sampleEdge cfg ts = { c with ref := ts, running := true }) ∨
      (c.running = true ∧ inCaptureBand cfg (duration ts c.ref) = true ∧
        c.sampleEdge cfg ts = c.appendPulse ts (duration ts c.ref)) ∨
      (c.running = true ∧ inCaptureBand cfg (duration ts c.ref) = false ∧
        c.sampleEdge cfg ts = { c with error := true }))) := by
  unfold CoreState.sampleEdge
  split
  · simp_all
  · split
    · simp_all
    · split
      · simp_all
      · split
        · simp_all
        · split <;> simp_all

theorem inCaptureBand_iff (cfg : Config) (d : Tick) :
    inCaptureBand cfg d = true ↔ cfg.capLo < d.toNat ∧ d.toNat < cfg.capHi := by
  simp [inCaptureBand]

/-- A duration of the capture band is stored whole (R95). -/
theorem storedPulse_toNat {cfg : Config} {d : Tick} (hwf : cfg.wf = true) (h : inCaptureBand cfg d = true) :
    (storedPulse d).toNat = d.toNat := by
  have h1 := ((inCaptureBand_iff cfg d).1 h).2
  have h2 : cfg.capHi ≤ 256 := by
    simp only [Config.wf, Bool.and_eq_true, decide_eq_true_eq] at hwf; tauto
  simp only [storedPulse, BitVec.toNat_setWidth]
  omega

/-! ### Runs -/

@[simp] theorem performs_nil (s : State) : performs [] s = .next s := rfl

theorem performs_cons {w : TWord} {ws : List TWord} {s : State} :
    performs (w :: ws) s =
      performs ws { s with core := coreStep s.cfg s.core (decode w), out := stepOutput s.core (decode w) } := by
  rw [performs, perform_eq]

theorem performs_append (ws vs : List TWord) (s : State) :
    performs (ws ++ vs) s = match performs ws s with
      | .next t => performs vs t
      | .fault r => .fault r
      | .refused r => .refused r := by
  induction ws generalizing s with
  | nil => rfl
  | cons w ws ih => rw [List.cons_append, performs_cons, performs_cons, ih]

/-- A run always answers a next state, and leaves the configuration and the streams alone. -/
theorem performs_total (ws : List TWord) (s : State) :
    ∃ t, performs ws s = .next t ∧ t.cfg = s.cfg ∧ t.line = s.line ∧ t.host = s.host ∧ t.merge = s.merge := by
  induction ws generalizing s with
  | nil => exact ⟨s, rfl, rfl, rfl, rfl, rfl⟩
  | cons w ws ih => rw [performs_cons]; exact ih _

/-- Induction over a run: what holds at its start and is kept by every word of it holds at its end. -/
theorem performs_induct {P : State → Prop} {ws : List TWord} {s t : State}
    (keeps : ∀ w ∈ ws, ∀ u, P u → P { u with core := coreStep u.cfg u.core (decode w), out := stepOutput u.core (decode w) })
    (h0 : P s) (h : performs ws s = .next t) : P t := by
  induction ws generalizing s with
  | nil => cases h; exact h0
  | cons w ws ih =>
    rw [performs_cons] at h
    exact ih (fun v hv => keeps v (List.mem_cons_of_mem _ hv)) (keeps w List.mem_cons_self _ h0) h

end Sys2Proof.Machine
end

