-- ==== Sys2Proof/Laws/DecodeCapture.lean ====
section
/-! SUPPORT. What the back end can answer: bands, Validate, one assembly step, and DECODE's evaluation. -/

namespace Sys2Proof

theorem Band.contains_iff (b : Band) (v : Byte) : b.contains v = true ↔ b.lo ≤ v.toNat ∧ v.toNat ≤ b.hi := by
  simp [Band.contains]

namespace Machine

/-! ### Validate (R97) -/

theorem pulseOk_iff (cfg : Config) (i : Nat) (v : Byte) : pulseOk cfg i v = true ↔
    if i = 0 then cfg.hs0.lo ≤ v.toNat ∧ v.toNat ≤ cfg.hs0.hi
    else if i ≤ 2 then cfg.hs1.lo ≤ v.toNat ∧ v.toNat ≤ cfg.hs1.hi
    else if i % 2 = 1 then cfg.hdr.lo ≤ v.toNat ∧ v.toNat ≤ cfg.hdr.hi
    else (cfg.vb0.lo ≤ v.toNat ∧ v.toNat ≤ cfg.vb0.hi) ∨ (cfg.vb1.lo ≤ v.toNat ∧ v.toNat ≤ cfg.vb1.hi) := by
  unfold pulseOk
  by_cases h0 : i = 0
  · simp [h0, Band.contains_iff]
  · by_cases h2 : i ≤ 2
    · simp [h0, h2, show i = 1 ∨ i = 2 by omega, Band.contains_iff]
    · simp only [if_neg h0, if_neg h2, if_neg (show ¬ (i = 1 ∨ i = 2) by omega)]
      split <;> simp [Band.contains_iff]

/-- The first index of `Fin n` that a test accepts. -/
theorem find_first_iff {n : Nat} (p : Fin n → Bool) (i : Fin n) :
    (List.finRange n).find? p = some i ↔ p i = true ∧ ∀ k, k < i → p k = false := by
  rw [List.find?_eq_some_iff_getElem]
  simp only [List.getElem_finRange, List.length_finRange, Bool.not_eq_true', and_congr_right_iff]
  intro _
  constructor
  · rintro ⟨j, hj, e, h⟩ k hk
    subst e
    exact h k.val (by simpa [Fin.lt_def] using hk)
  · intro h
    exact ⟨i.val, i.isLt, by simp, fun j hj => h ⟨j, by omega⟩ hj⟩

theorem find_none_iff {n : Nat} (p : Fin n → Bool) : (List.finRange n).find? p = none ↔ ∀ i, p i = false := by
  simp [List.find?_eq_none]

/-! ### One step of the assembly loop (R111) -/

theorem assembleFrom_zero {cfg : Config} {buf : PulseBuffer} {j : Fin 40} (js : List (Fin 40)) (b : Frame)
    (h : bitDecode cfg buf[4 + 2 * j.val] = .zero) :
    assembleFrom cfg buf (j :: js) b = assembleFrom cfg buf js (pushBit b j false) := by
  simp [assembleFrom, h]

theorem assembleFrom_one {cfg : Config} {buf : PulseBuffer} {j : Fin 40} (js : List (Fin 40)) (b : Frame)
    (h : bitDecode cfg buf[4 + 2 * j.val] = .one) :
    assembleFrom cfg buf (j :: js) b = assembleFrom cfg buf js (pushBit b j true) := by
  simp [assembleFrom, h]

theorem assembleFrom_invalid {cfg : Config} {buf : PulseBuffer} {j : Fin 40} (js : List (Fin 40)) (b : Frame)
    (h : bitDecode cfg buf[4 + 2 * j.val] = .invalid) :
    assembleFrom cfg buf (j :: js) b = .di (BitVec.ofNat 7 (4 + 2 * j.val)) buf[4 + 2 * j.val] := by
  simp [assembleFrom, h]

/-- Pushing a bit shifts byte j div 8 up by one and leaves the other bytes alone. -/
theorem pushBit_getLsbD (b : Frame) (j : Fin 40) (r : Bool) (k : Fin 5) (i : Nat) (hi : i < 8) :
    (pushBit b j r)[k.val].getLsbD i =
      if k.val = j.val / 8 then (if i = 0 then r else b[k.val].getLsbD (i - 1)) else b[k.val].getLsbD i := by
  unfold pushBit
  by_cases h : k.val = j.val / 8
  · simp only [h, Vector.getElem_set_self, if_true]
    by_cases h0 : i = 0
    · subst h0; cases r <;> simp
    · simp [h0, hi, BitVec.getLsbD_ofBool]; rw [BitVec.getLsbD_eq_getElem (by omega)]
  · simp only [if_neg h]
    rw [Vector.getElem_set_ne _ _ (by omega)]

/-! ### DECODE (R120 to R122) -/

/-- The evaluation reads the buffer and three flags, and nothing else. -/
theorem evaluate_congr {cfg : Config} {c c' : CoreState} (hbuf : c'.buf = c.buf) (hrunning : c'.running = c.running)
    (hfinished : c'.finished = c.finished) (herror : c'.error = c.error) : evaluate cfg c' = evaluate cfg c := by
  simp [evaluate, hbuf, hrunning, hfinished, herror]

/-- Everything the evaluation can answer, with what makes it so. -/
theorem evaluate_cases (cfg : Config) (c : CoreState) :
    (evaluate cfg c = .timeout ∧ (c.running = true ∨ c.finished = false)) ∨
    (c.running = false ∧ c.finished = true ∧
      ((evaluate cfg c = .captureError ∧ c.error = true) ∨
      (c.error = false ∧
        ((∃ i m, validate cfg c.buf = .sv i m ∧ evaluate cfg c = .structViolation i m) ∨
        (validate cfg c.buf = .pass ∧
          ((∃ i m, assemble cfg c.buf = .di i m ∧ evaluate cfg c = .decodeInvalid i m) ∨
          (∃ b, assemble cfg c.buf = .bytes b ∧
            ((checksumOk b = true ∧ evaluate cfg c = .ok b) ∨
            (checksumOk b = false ∧ evaluate cfg c = .checksumMismatch))))))))) := by
  unfold evaluate
  split
  · simp_all
  · split
    · simp_all
    · cases hv : validate cfg c.buf with
      | sv i m => simp_all
      | pass =>
        cases ha : assemble cfg c.buf with
        | di i m => simp_all
        | bytes b => cases hc : checksumOk b <;> simp_all

/-- DECODE of a detached core writes the outcome. -/
theorem execDecode_detached {s : State} (hf : s.core.faulted = false) (ha : s.core.attached = false) :
    execDecode s = .next { s with core := s.core.writeResult (evaluate s.cfg s.core), out := none } := by
  simp [execDecode, hf, ha]

end Machine
end Sys2Proof
end

