-- ==== Sys2Proof/Laws/HostProcedure.lean ====
section
/-! SUPPORT. Running a host procedure: what each step of one does, and the merged word list of a delivery of the line's words. -/

namespace Sys2Proof.Machine

@[simp] theorem andThen_next {α β : Type} (a : α) (f : α → Host.Outcome β Fault Refusal) : andThen (.next a) f = f a := rfl

theorem andThen_assoc {α β γ : Type} (o : Host.Outcome α Fault Refusal) (f : α → Host.Outcome β Fault Refusal)
    (g : β → Host.Outcome γ Fault Refusal) : andThen (andThen o f) g = andThen o fun a => andThen (f a) g := by
  cases o <;> rfl

theorem performs_append_andThen (ws vs : List TWord) (s : State) :
    performs (ws ++ vs) s = andThen (performs ws s) (performs vs) := by
  rw [performs_append]; cases performs ws s <;> rfl

/-- A READ issued by a procedure: the line's words before it, and then the procedure goes on with the byte at the address (R78). -/
theorem HostProc.run_read (addr : Byte) (next : Byte → HostProc) (line : List (List TWord)) (s : State) :
    (HostProc.read addr next).run line s =
      andThen (performs (line.headD [] ++ [encode (.read addr)]) s) fun t => (next (memRead t.core addr)).run line.tail t := by
  obtain ⟨u, hu, -⟩ := performs_total (line.headD []) s
  have hd : decode (encode (.read addr)) = .legal (.read addr) := by simp [encode, decode]
  have hc : coreStep u.cfg u.core (.legal (.read addr)) = u.core := by simp [coreStep, coreEffect]
  simp only [HostProc.run, performs_append_andThen, hu, andThen_next, performs_cons, performs_nil, hd, hc, stepOutput]

/-! ### The merged words of a delivery -/

/-- The host's words, each after one list of the line's. -/
def weave : List TWord → List (List TWord) → List TWord
  | [], _ => []
  | h :: hs, line => line.headD [] ++ h :: weave hs line.tail

theorem weave_append (hs ks : List TWord) (line : List (List TWord)) :
    weave (hs ++ ks) line = weave hs line ++ weave ks (line.drop hs.length) := by
  induction hs generalizing line with
  | nil => rfl
  | cons h hs ih => simp [weave, ih]

/-- The actions of a list, run: their words merged with the line's, and then the rest. -/
theorem HostProc.run_acts (as : List HostAction) (next : HostProc) (line : List (List TWord)) (s : State) :
    (HostProc.acts as next).run line s =
      andThen (performs (weave (hostWords as) line) s) fun t => next.run (line.drop (hostWords as).length) t := by
  induction as generalizing line s with
  | nil => rfl
  | cons a as ih =>
    cases hw : a.word with
    | none => simpa [HostProc.acts, HostProc.run, hw, hostWords] using ih line s
    | some w =>
      have hh : hostWords (a :: as) = w :: hostWords as := by simp [hostWords, hw]
      have e : line.headD [] ++ w :: weave (hostWords as) line.tail =
          (line.headD [] ++ [w]) ++ weave (hostWords as) line.tail := by simp
      rw [hh, weave, e, performs_append_andThen, andThen_assoc, HostProc.acts, HostProc.run, hw]
      simp only [ih, List.length_cons, List.drop_tail]

theorem interleave_left_append {xs ys zs : List TWord} (es : List TWord) (h : Interleave xs ys zs) :
    Interleave (es ++ xs) ys (es ++ zs) := by
  induction es with
  | nil => exact h
  | cons e es ih => exact .left e ih

theorem interleave_line_only (es : List TWord) : Interleave es [] es := by
  simpa using interleave_left_append es .nil

/-- A delivery is an interleaving. -/
theorem interleave_weave (hs : List TWord) (line : List (List TWord)) :
    Interleave line.flatten hs (weave hs line ++ (line.drop hs.length).flatten) := by
  induction hs generalizing line with
  | nil => simpa [weave] using interleave_line_only line.flatten
  | cons h hs ih =>
    cases line with
    | nil => simpa [weave] using Interleave.right h (ih [])
    | cons l line => simpa [weave] using interleave_left_append l (Interleave.right h (ih line))

/-- Every interleaving is a delivery. -/
theorem exists_weave {es hs ws : List TWord} (h : Interleave es hs ws) :
    ∃ line : List (List TWord), line.flatten = es ∧ ws = weave hs line ++ (line.drop hs.length).flatten := by
  induction h with
  | nil => exact ⟨[], rfl, rfl⟩
  | @left xs ys zs x _ ih =>
    obtain ⟨line, rfl, rfl⟩ := ih
    refine ⟨(x :: line.headD []) :: line.tail, ?_, ?_⟩
    · cases line <;> simp
    · cases ys <;> cases line <;> simp [weave]
  | right y _ ih =>
    obtain ⟨line, rfl, rfl⟩ := ih
    exact ⟨[] :: line, by simp, by simp [weave]⟩

end Sys2Proof.Machine
end

