-- ==== Sys2Proof/Laws/PerInstr.lean ====
section
/-! SUPPORT. The per-instruction family of LAWS.json: `OpcodeField`, one lemma per constructor. -/

namespace Sys2Proof.Laws.OpcodeField

open Sys2Proof

/-- The OP of R63's row with this mnemonic. -/
def opcode : Instr → BitVec 4
  | .nop => 0x0#4
  | .arm => 0x1#4
  | .close => 0x2#4
  | .decode => 0x3#4
  | .edge _ _ => 0x4#4
  | .read _ => 0x5#4
  | .reset => 0x6#4

/-- The transaction is well formed, its word carries its row's OP in T[39:36] (R60, R63) and, but for the two formats with an
operand, nothing else (R61). -/
def Statement (i : Instr) : Prop :=
  i.wf = true ∧ opField (encode i) = opcode i ∧
  ((∀ ts lv, i ≠ .edge ts lv) → (∀ addr, i ≠ .read addr) → zeroFieldC (encode i) = 0#36)

theorem nop : Statement .nop := ⟨rfl, opField_formatC _, fun _ _ => zeroFieldC_formatC _⟩
theorem arm : Statement .arm := ⟨rfl, opField_formatC _, fun _ _ => zeroFieldC_formatC _⟩
theorem close : Statement .close := ⟨rfl, opField_formatC _, fun _ _ => zeroFieldC_formatC _⟩
theorem decode : Statement .decode := ⟨rfl, opField_formatC _, fun _ _ => zeroFieldC_formatC _⟩
theorem edge (ts : Tick) (lv : BitVec 1) : Statement (.edge ts lv) :=
  ⟨rfl, opField_formatE _ _, fun h _ => absurd rfl (h ts lv)⟩
theorem read (addr : Byte) : Statement (.read addr) := ⟨rfl, opField_formatR _, fun _ h => absurd rfl (h addr)⟩
theorem reset : Statement .reset := ⟨rfl, opField_formatC _, fun _ _ => zeroFieldC_formatC _⟩

end Sys2Proof.Laws.OpcodeField
end

