-- ==== Sys2Proof/Tests/Slice0.lean ====
section
/-! SUPPORT. Small tests of single steps, with results taken from the spec's own examples and from spec/95_test_vectors.md, and a
witness for the hypotheses of every statement. -/

namespace Sys2Proof.Tests

open Sys2Proof Sys2Proof.Machine

/-! ### States the tests start from -/

/-- Attached, no edge yet: WAIT_FIRST. -/
def armed : State := { State.reset with core := { CoreState.reset with attached := true } }

/-- SAMPLING with `n` durations of 50 stored and ref = 1000. -/
def sampling (n : Nat) : State :=
  { armed with core := { armed.core with
      buf := Vector.ofFn fun i => if i.val < n then 50#8 else 0#8
      cursor := BitVec.ofNat 7 n
      running := true
      ref := 1000#32 } }

/-- The durations of a clean capture of `b`: 30, 80, 80, then 50 and `z` or `o` for each bit. -/
def pulses (b : Frame) (z o : Byte) : PulseBuffer :=
  Vector.ofFn fun i =>
    if i.val = 0 then 30#8 else if i.val ≤ 2 then 80#8 else if i.val % 2 = 1 then 50#8
    else if payloadBit b ⟨(i.val - 4) / 2, by omega⟩ then o else z

/-- The frame of the spec's example (R120). -/
def exampleFrame : Frame := #v[0x32#8, 0x00#8, 0x1B#8, 0x00#8, 0x4D#8]

/-- A closed, full capture. -/
def closed (buf : PulseBuffer) : State :=
  { State.reset with core := { CoreState.reset with buf := buf, cursor := 83#7, finished := true, ref := 1000#32 } }

/-- A state with a fault latched while attached and finished: STATUS = 0x1A (R75's example). -/
def faulted : State :=
  { armed with core := { armed.core with finished := true, faulted := true, faultCause := 2#2 } }

/-- What a test looks at in a next state. -/
def after {α : Type} (o : Host.Outcome State Fault Refusal) (f : State → α) : Option α :=
  match o with
  | .next s => some (f s)
  | .fault _ => none
  | .refused _ => none

/-! ### Well-formedness: an ill-formed configuration for each check of R10 -/

theorem test_wf_default : Config.default.wf = true := by decide
theorem test_wf_legacy : Config.legacy.wf = true := by decide
theorem test_wf_aborting : Config.aborting.wf = true := by decide
theorem test_wf_empty_capture_band : ({ Config.default with capLo := 100 } : Config).wf = false := by decide
theorem test_wf_capture_band_too_high : ({ Config.default with capHi := 257 } : Config).wf = false := by decide
theorem test_wf_capture_band_top : ({ Config.default with capHi := 256 } : Config).wf = true := by decide
theorem test_wf_hs0_order : ({ Config.default with hs0 := ⟨51, 50⟩ } : Config).wf = false := by decide
theorem test_wf_hs1_width : ({ Config.default with hs1 := ⟨65, 256⟩ } : Config).wf = false := by decide
theorem test_wf_hdr_order : ({ Config.default with hdr := ⟨61, 60⟩ } : Config).wf = false := by decide
theorem test_wf_vb0_order : ({ Config.default with vb0 := ⟨36, 35⟩ } : Config).wf = false := by decide
theorem test_wf_vb1_width : ({ Config.default with vb1 := ⟨55, 256⟩ } : Config).wf = false := by decide
theorem test_wf_db0_order : ({ Config.default with db0 := ⟨36, 35⟩ } : Config).wf = false := by decide
theorem test_wf_db1_width : ({ Config.default with db1 := ⟨55, 256⟩ } : Config).wf = false := by decide
theorem test_wf_bit_bands_overlap : ({ Config.default with db0 := ⟨15, 55⟩ } : Config).wf = false := by decide
theorem test_step_refuses_ill_formed :
    step { State.reset with cfg := { Config.default with capLo := 100 } } = .refused .illFormedConfig := rfl

/-- R11's two lower bounds: the defaults meet them, one tick less does not. -/
theorem test_host_params_wf : HostParams.wf { armPoint := 4, retryPeriod := 2000000 } = true ∧
    HostParams.wf { settle := 999999, armPoint := 4, retryPeriod := 2000000 } = false ∧
    HostParams.wf { wakeLow := 17999, armPoint := 4, retryPeriod := 2000000 } = false := by decide

/-! ### Decoding words written out from R61 and R63 (spec/95_test_vectors.md section 2) -/

/-- V2.1, V2.17, V2.18 -/
theorem test_decode_nop : decode 0x0000000000#40 = .legal .nop ∧ decode 0x0000000001#40 = .illegal .nonzeroField ∧
    decode 0x0800000000#40 = .illegal .nonzeroField := by decide
/-- V2.2, V2.19 -/
theorem test_decode_arm : decode 0x1000000000#40 = .legal .arm ∧ decode 0x1000000100#40 = .illegal .nonzeroField := by decide
/-- V2.3, V2.20 -/
theorem test_decode_close : decode 0x2000000000#40 = .legal .close ∧ decode 0x2000000001#40 = .illegal .nonzeroField := by
  decide
/-- V2.4, V2.21 -/
theorem test_decode_decode : decode 0x3000000000#40 = .legal .decode ∧ decode 0x3100000000#40 = .illegal .nonzeroField := by
  decide
/-- V2.6 to V2.9 -/
theorem test_decode_edge : decode 0x41000003E8#40 = .legal (.edge 1000#32 1#1) ∧
    decode 0x40000003E8#40 = .legal (.edge 1000#32 0#1) ∧ decode 0x40FFFFFFFF#40 = .legal (.edge 0xFFFFFFFF#32 0#1) ∧
    decode 0x4100000000#40 = .legal (.edge 0#32 1#1) := by decide
/-- V2.23 to V2.25: each must-be-zero bit of format E -/
theorem test_decode_edge_zero_field : decode 0x4200000000#40 = .illegal .nonzeroField ∧
    decode 0x4400000000#40 = .illegal .nonzeroField ∧ decode 0x4800000000#40 = .illegal .nonzeroField := by decide
/-- V2.10 to V2.12, V2.26, V2.27 -/
theorem test_decode_read : decode 0x5000000070#40 = .legal (.read 0x70#8) ∧ decode 0x50000000FF#40 = .legal (.read 0xFF#8) ∧
    decode 0x5000000000#40 = .legal (.read 0x00#8) ∧ decode 0x5000000100#40 = .illegal .nonzeroField ∧
    decode 0x5800000000#40 = .illegal .nonzeroField := by decide
/-- V2.5, V2.22 -/
theorem test_decode_reset : decode 0x6000000000#40 = .legal .reset ∧ decode 0x6000000001#40 = .illegal .nonzeroField := by
  decide
/-- V2.13 to V2.16 -/
theorem test_decode_reserved : decode 0x7000000000#40 = .illegal .reservedOp ∧ decode 0x8000000000#40 = .illegal .reservedOp ∧
    decode 0xF000000000#40 = .illegal .reservedOp ∧ decode 0xFFFFFFFFFF#40 = .illegal .reservedOp := by decide
/-- The host's numbering of a word (log entry 9). -/
theorem test_decodeTableWord : decodeTableWord 40 0x5000000070 = some (.read 0x70#8) ∧
    decodeTableWord 40 0x7000000000 = none ∧ decodeTableWord 40 0x10000000000 = none := by decide

/-! ### One step of each transaction -/

/-- The whole step from reset: the word placed by `withFetchWord` is the one performed, and nothing of it stays pending. -/
theorem test_step_from_reset : step (State.reset.withFetchWord 40 0x1000000000) = .next armed := rfl

/-- R74 -/
theorem test_nop : exec .nop (sampling 40) = .next (sampling 40) := rfl
/-- R75's example: STATUS 0x1A before, 0x00 after. -/
theorem test_reset : memRead faulted.core 0x60#8 = 0x1A#8 ∧ exec .reset faulted = .next State.reset := ⟨rfl, rfl⟩
/-- R76's example: STATUS = 0x08 after ARM from reset. -/
theorem test_arm : after (exec .arm State.reset) (fun s => memRead s.core 0x60#8) = some 0x08#8 := by decide
/-- R76, R131: ARM while attached keeps the capture and latches cause 2. -/
theorem test_arm_attached : after (exec .arm (sampling 40)) (fun s => (s.core.faultCause, s.core.cursor)) = some (2#2, 40#7) := by
  decide
/-- R77's example: from SAMPLING with cursor = 40, STATUS = 0x01 and CURSOR = 0x28. -/
theorem test_close : after (exec .close (sampling 40)) (fun s => (memRead s.core 0x60#8, memRead s.core 0x61#8)) =
    some (0x01#8, 0x28#8) := by decide
/-- R78, R42 -/
theorem test_read : after (exec (.read 0x61#8) (sampling 40)) State.out = some (some 0x28#8) ∧
    after (exec (.read 0x53#8) (sampling 40)) State.out = some (some 0x00#8) := by decide
/-- R85's example: the first EDGE gives running = T, ref = 1000, cursor = 0. -/
theorem test_edge_first : after (exec (.edge 1000#32 0#1) armed) (fun s => (s.core.running, s.core.ref, s.core.cursor)) =
    some (true, 1000#32, 0#7) := by decide
/-- R85's example: from ref = 1000, EDGE 1030 stores 30 at the cursor. -/
theorem test_edge_stores : after (exec (.edge 1030#32 1#1) (sampling 2))
    (fun s => (s.core.buf[2], s.core.cursor, s.core.ref, s.core.error)) = some (30#8, 3#7, 1030#32, false) := by decide
/-- R121: DECODE while attached latches cause 3 and leaves the results. -/
theorem test_decode_attached : after (exec .decode (sampling 40)) (fun s => (s.core.faultCause, s.core.resCode)) =
    some (3#2, 0#3) := by decide
/-- R120's example: RES_CODE = 1 and the frame. -/
theorem test_decode_ok : after (exec .decode (closed (pulses exampleFrame 26#8 70#8)))
    (fun s => (s.core.resCode, s.core.frame)) = some (1#3, exampleFrame) := by decide

/-! ### The component functions at the spec's corner cases -/

/-- R96 (a), (c), (d) -/
theorem test_capture_band : inCaptureBand Config.default 10#32 = false ∧ inCaptureBand Config.default 11#32 = true ∧
    inCaptureBand Config.default 99#32 = true ∧ inCaptureBand Config.default 100#32 = false ∧
    duration 0x00000010#32 0xFFFFFFF0#32 = 32#32 ∧ duration 999#32 1000#32 = 0xFFFFFFFF#32 := by decide
/-- R110 -/
theorem test_bitDecode : bitDecode Config.default 14#8 = .invalid ∧ bitDecode Config.default 15#8 = .zero ∧
    bitDecode Config.default 35#8 = .zero ∧ bitDecode Config.default 36#8 = .invalid ∧ bitDecode Config.default 55#8 = .one ∧
    bitDecode Config.default 85#8 = .one ∧ bitDecode Config.default 86#8 = .invalid ∧
    bitDecode Config.legacy 59#8 = .invalid ∧ bitDecode Config.legacy 60#8 = .one ∧ bitDecode Config.legacy 81#8 = .invalid := by
  decide
/-- R105: buf[0] = 60 and buf[10] = 99 gives SV(0, 60). -/
theorem test_validate_lowest : validate Config.default (((pulses exampleFrame 26#8 70#8).set 0 60#8).set 10 99#8) =
    .sv 0#7 60#8 := by decide
/-- R117 (d): legacy, buf[4] = 57 gives DI(4, 57). -/
theorem test_assemble_legacy : assemble Config.legacy ((pulses exampleFrame 26#8 70#8).set 4 57#8) = .di 4#7 57#8 := by decide
/-- R111's example. -/
theorem test_assemble : assemble Config.default (pulses #v[0xB2#8, 0x00#8, 0x1B#8, 0x00#8, 0xCD#8] 26#8 70#8) =
    .bytes #v[0xB2#8, 0x00#8, 0x1B#8, 0x00#8, 0xCD#8] := by decide
/-- R68's and R69's words: an EDGE line, and the first words of START and PULSE. -/
theorem test_trace : traceWords [.instr (.edge 1000#32 1#1), .start 1000#32, .pulse 30#32, .finish] =
    [0x41000003E8#40, 0x40000003E8#40, 0x4100000406#40, 0x2000000000#40, 0x3000000000#40] := by decide

/-- R127, row by row: RES_CODE and the bytes read after it give the Result. -/
theorem test_returned : returned 1#3 [0x32#8, 0x00#8, 0x1B#8, 0x00#8, 0x4D#8] = some (.ok exampleFrame) ∧
    returned 2#3 [] = some .timeout ∧ returned 4#3 [0x07#8, 0x2D#8] = some (.structuralViolation 7#7 45#8) ∧
    returned 5#3 [0x04#8, 0x39#8] = some .decodeInvalid ∧ returned 6#3 [] = some .checksumMismatch := by decide
/-- R148's steps 1 to 6 with ARM after the wake pulse: the line is taken first, DECODE comes last. -/
theorem test_attemptSteps : attemptSteps { armPoint := 3, retryPeriod := 2000000 } =
    [.takeLine, .configureOutput, .wait 1000000, .driveLow 18000, .issue .arm, .driveHigh 30, .switchToInput, .wait 5000,
      .issue .close, .issue .decode] := by decide

/-! ### Witnesses: states and operands that meet the hypotheses of each statement -/

/-- The default with ERR_POLICY = ABORT and an error seen. -/
def aborted : State :=
  { sampling 40 with cfg := Config.aborting, core := { (sampling 40).core with error := true } }

/-- An unfaulted attached core that has an EDGE of the line and a CLOSE of the host pending. -/
def pending : State :=
  { armed with line := [encode (.edge 1000#32 0#1)], host := [encode .close], merge := [.line] }

/-- The legacy configuration with a closed capture whose first data pulse is `v`. -/
def legacyClosed (v : Byte) : State :=
  { closed ((pulses exampleFrame 26#8 70#8).set 4 v) with cfg := Config.legacy }

theorem inv_armed : armed.Inv := by
  refine ⟨⟨?_, ?_, ?_, ?_, ?_, ?_, ?_, ?_⟩, ⟨?_, ?_, ?_, ?_, ?_⟩⟩ <;> decide
theorem inv_sampling_first : (sampling 0).Inv := by
  refine ⟨⟨?_, ?_, ?_, ?_, ?_, ?_, fun i _ => ?_, fun i h => absurd h (Nat.not_lt_zero _)⟩, ⟨?_, ?_, ?_, ?_, ?_⟩⟩
  case refine_7 => simp [sampling]
  all_goals decide
theorem inv_sampling_last : (sampling 82).Inv := by
  refine ⟨⟨?_, ?_, ?_, ?_, ?_, ?_, fun i h => ?_, fun i h => ?_⟩, ⟨?_, ?_, ?_, ?_, ?_⟩⟩
  case refine_7 =>
    change 82 ≤ i.val at h
    simp [sampling, Nat.not_lt.2 h]
  case refine_8 =>
    change i.val < 82 at h
    simp [sampling, armed, h, Config.default, State.reset]
  all_goals decide
theorem inv_pending : pending.Inv := ⟨inv_armed.capture, inv_armed.result⟩

/-- Each check of R10 refuses some configuration (the tests `test_wf_…` above), and one of them meets the hypothesis. -/
theorem witness_IllFormedConfigurationIsRefused :
    ({ State.reset with cfg := { Config.default with capHi := 257 } } : State).cfg.wf = false := by decide
theorem witness_EveryWordHasAResult :
    (armed.cfg = pending.cfg ∧ armed.core = pending.core ∧ armed ≠ pending) ∧ armed.cfg.wf = true ∧
    (faulted.core.faulted = true ∧ decode 0x0000000000#40 ≠ .legal .reset ∧
      ∀ a, decode 0x0000000000#40 ≠ .legal (.read a)) ∧
    IsEdgeWord 0x41000003E8#40 ∧ State.reset.core.attached = false ∧
    (closed (pulses exampleFrame 26#8 70#8)).core.finished = true ∧
    (aborted.cfg.errPolicy = .abort ∧ aborted.core.error = true) :=
  ⟨by decide, by decide, by decide, ⟨_, _, rfl⟩, by decide, by decide, by decide⟩
theorem witness_EveryInterleavingIsARun :
    State.reset.cfg.wf = true ∧
    Interleave [encode (.edge 1000#32 0#1)] [encode .arm, encode .close] [encode .arm, encode (.edge 1000#32 0#1), encode .close] ∧
    ∃ t, steps 1 pending = .next t ∧ t.core.running = true :=
  ⟨by decide, .right _ (.left _ (.right _ .nil)), _, rfl, rfl⟩
theorem witness_StepRunsTheDeliveredTransaction :
    pending.cfg.wf = true ∧ (∃ s', nextWord pending = some (encode (.edge 1000#32 0#1), s')) ∧
    (∃ s', nextWord (armed.withFetchWord 40 0x7000000000) = some (0x7000000000#40, s')) ∧
    decode (encode (.edge 1000#32 0#1)) = .legal (.edge 1000#32 0#1) ∧ decode 0x7000000000#40 = .illegal .reservedOp ∧
    (State.reset.line = [] ∧ State.reset.host = []) ∧ decode (BitVec.ofNat 40 0x5000000070) = .legal (.read 0x70#8) :=
  ⟨by decide, ⟨_, rfl⟩, ⟨_, rfl⟩, by decide, by decide, by decide, by decide⟩
theorem witness_StatusRegisterBits : 5 ≤ 5 ∧ (memRead faulted.core 0x60#8).getLsbD 5 = false := by decide
/-- Both ends of each reserved range of R41, and the neighbours outside them. -/
theorem witness_ReservedAddressReadsZero :
    let reserved (addr : Byte) : Prop :=
      (0x53 ≤ addr.toNat ∧ addr.toNat ≤ 0x5F) ∨ (0x63 ≤ addr.toNat ∧ addr.toNat ≤ 0x6F) ∨ 0x78 ≤ addr.toNat
    (reserved 0x53#8 ∧ reserved 0x5F#8 ∧ reserved 0x63#8 ∧ reserved 0x6F#8 ∧ reserved 0x78#8 ∧ reserved 0xFF#8) ∧
    ¬ reserved 0x52#8 ∧ ¬ reserved 0x60#8 ∧ ¬ reserved 0x62#8 ∧ ¬ reserved 0x70#8 ∧ ¬ reserved 0x77#8 := by decide
theorem witness_OnlyTheNamedTransactionsWriteAField :
    (∃ t, exec .arm State.reset = .next t) ∧ (∃ t, exec .reset State.reset = .next t) ∧ (∃ t, exec .close armed = .next t) ∧
    (∃ t, exec .decode State.reset = .next t) ∧ (∃ t, exec (.edge 1030#32 1#1) (sampling 2) = .next t) ∧
    (∃ t, exec (.read 0x70#8) armed = .next t) ∧ (∃ t, exec .nop armed = .next t) ∧
    (∀ ts lv, Instr.nop ≠ .edge ts lv) ∧ Instr.nop ≠ .arm ∧ Instr.nop ≠ .close ∧ Instr.nop ≠ .decode ∧ Instr.nop ≠ .reset :=
  ⟨⟨_, rfl⟩, ⟨_, rfl⟩, ⟨_, rfl⟩, ⟨_, rfl⟩, ⟨_, rfl⟩, ⟨_, rfl⟩, ⟨_, rfl⟩, by simp, by simp, by simp, by simp, by simp⟩
/-- The three clauses: kept, advanced (from 0 and from 82), cleared. -/
theorem witness_CursorChangesOnlyByOneOrToZero :
    (sampling 0).Inv ∧ (sampling 82).Inv ∧
    (∃ t, perform (encode (.edge 1010#32 0#1)) (sampling 0) = .next t ∧ t.core.cursor = 0#7) ∧
    (∃ t, perform (encode (.edge 1011#32 0#1)) (sampling 0) = .next t ∧ t.core.cursor = 1#7) ∧
    (∃ t, perform (encode (.edge 1099#32 0#1)) (sampling 82) = .next t ∧ t.core.cursor = 83#7) ∧
    (∃ t, perform (encode .reset) (sampling 82) = .next t ∧ t.core.cursor = 0#7) :=
  ⟨inv_sampling_first, inv_sampling_last, ⟨_, rfl, by decide⟩, ⟨_, rfl, by decide⟩, ⟨_, rfl, by decide⟩, ⟨_, rfl, by decide⟩⟩
theorem witness_EveryStepKeepsTheInvariant : pending.Inv ∧ ∃ t, step pending = .next t ∧ t.core.running = true :=
  ⟨inv_pending, _, rfl, rfl⟩
theorem witness_DetachedCaptureHasSeenClose :
    ∃ t, performs [encode .arm, encode (.edge 1000#32 0#1), encode (.edge 1030#32 1#1), encode .close]
        { State.reset with cfg := Config.default } = .next t ∧
      0 < t.core.cursor.toNat ∧ t.core.attached = false := ⟨_, rfl, by decide, by decide⟩
theorem witness_DecodeOfEncodeIsTheInstruction :
    Instr.wf .nop = true ∧ Instr.wf (.edge 0xFFFFFFFF#32 1#1) = true ∧ Instr.wf (.read 0xFF#8) = true := by decide
theorem witness_LegalWordIsTheEncoding :
    decode 0x41FFFFFFFF#40 = .legal (.edge 0xFFFFFFFF#32 1#1) ∧ decode 0x50000000FF#40 = .legal (.read 0xFF#8) := by decide
theorem witness_DecoderFollowsTheOpcodeTable :
    ⟨"EDGE", 0x4000000000#40, 0xFE00000000#40⟩ ∈ opcodeTable ∧
    OpcodeRow.selectedBy ⟨"EDGE", 0x4000000000#40, 0xFE00000000#40⟩ 0x41FFFFFFFF#40 = true := by decide
/-- One word for each of the four clauses, each in an unfaulted and a faulted core. -/
theorem witness_IllegalWordsFaultOrAreIgnored :
    decode 0x7000000000#40 = .illegal .reservedOp ∧ decode 0x6000000001#40 = .illegal .nonzeroField ∧
    decode 0x4200000000#40 = .illegal .nonzeroField ∧ decode 0x5000000100#40 = .illegal .nonzeroField ∧
    armed.core.faulted = false ∧ faulted.core.faulted = true := by decide
theorem witness_FrameExpansionFillsTheBuffer :
    armed.Inv ∧ armed.cfg = Config.default ∧ armed.core.phase = .waitFirst ∧ 3 ≤ (81 : Fin 83).val ∧ (81 : Fin 83).val % 2 = 1 :=
  ⟨inv_armed, by decide, by decide, by decide, by decide⟩
theorem witness_NopDoesNothing : opField 0x0000000001#40 = 0x0#4 ∧ 0x0000000001#40 ≠ 0x0000000000#40 := by decide
theorem witness_ResetRestoresEveryField :
    (∃ t, perform (encode .reset) faulted = .next t ∧ faulted.core.faulted = true ∧ t.core.faulted = false) ∧
    opField 0x6000000001#40 = 0x6#4 ∧ zeroFieldC 0x6000000001#40 ≠ 0#36 ∧ (∃ t, exec .reset faulted = .next t) :=
  ⟨⟨_, rfl, by decide, by decide⟩, by decide, by decide, _, rfl⟩
theorem witness_ArmStartsACaptureOrFaults :
    (State.reset.core.faulted = false ∧ State.reset.core.attached = false) ∧
    (armed.core.faulted = false ∧ armed.core.attached = true) ∧ ∃ t, exec .arm State.reset = .next t :=
  ⟨by decide, by decide, _, rfl⟩
theorem witness_CloseDetachesOnly :
    armed.core.faulted = false ∧ State.reset.core.attached = false ∧ (sampling 40).core.phase = .sampling ∧
    (sampling 40).core.finished = false ∧ (sampling 40).core.error = false ∧ (sampling 40).core.cursor = 40#7 ∧
    ∃ t, exec .close (sampling 40) = .next t :=
  ⟨by decide, by decide, by decide, by decide, by decide, by decide, _, rfl⟩
theorem witness_ReadReturnsTheByteAndChangesNothing :
    (∃ t, exec (.read 0x52#8) (sampling 40) = .next t) ∧ opField 0x5000000100#40 = 0x5#4 ∧
    zeroFieldR 0x5000000100#40 ≠ 0#28 := ⟨⟨_, rfl⟩, by decide, by decide⟩
theorem witness_OnlyReadHasAnOutput :
    (∃ t, perform 0x5000000061#40 (sampling 40) = .next t ∧ t.out = some 0x28#8) ∧
    (∃ t, perform 0x7000000000#40 (sampling 40) = .next t ∧ t.out = none) ∧
    decode 0x5000000061#40 = .legal (.read 0x61#8) ∧ ∀ a, decode 0x7000000000#40 ≠ .legal (.read a) :=
  ⟨⟨_, rfl, by decide⟩, ⟨_, rfl, by decide⟩, by decide, by decide⟩
/-- The EDGE that stays in SAMPLING and the one that fills the buffer. -/
theorem witness_PhaseTransitionsFollowTheTable :
    (sampling 0).Inv ∧ (sampling 82).Inv ∧ (sampling 0).core.phase = .sampling ∧ (sampling 82).core.phase = .sampling ∧
    (∃ t, perform (encode (.edge 1030#32 1#1)) (sampling 0) = .next t ∧ t.core.phase = .sampling) ∧
    (∃ t, perform (encode (.edge 1030#32 1#1)) (sampling 82) = .next t ∧ t.core.phase = .full) ∧
    decode (encode (.edge 1030#32 1#1)) = .legal (.edge 1030#32 1#1) :=
  ⟨inv_sampling_first, inv_sampling_last, by decide, by decide, ⟨_, rfl, by decide⟩, ⟨_, rfl, by decide⟩, by decide⟩
theorem witness_EdgeIgnoredWhileDetached : State.reset.core.attached = false := by decide
theorem witness_EdgeIgnoredWhenFinished : (closed (pulses exampleFrame 26#8 70#8)).core.finished = true := by decide
theorem witness_AbortStopsTheCaptureAtTheFirstError :
    aborted.cfg.errPolicy = .abort ∧ aborted.core.error = true ∧ aborted.core.finished = false ∧
    aborted.core.faulted = false ∧ (∀ w ∈ [encode (.edge 1030#32 1#1)], IsEdgeWord w) ∧
    (sampling 40).cfg.errPolicy = .continue ∧ (∃ t, exec (.edge 1030#32 1#1) (sampling 40) = .next t) ∧
    ∃ u, exec (.edge 1030#32 1#1) { sampling 40 with core := { (sampling 40).core with error := true } } = .next u :=
  ⟨by decide, by decide, by decide, by decide, by rintro w hw; cases List.mem_singleton.1 hw; exact ⟨_, _, rfl⟩, by decide,
    ⟨_, rfl⟩, _, rfl⟩
theorem witness_FirstEdgeSetsTheReference :
    armed.core.faulted = false ∧ armed.core.attached = true ∧ armed.core.finished = false ∧
    ¬ (armed.cfg.errPolicy = .abort ∧ armed.core.error = true) ∧ armed.core.running = false := by decide
theorem witness_DurationIsTheForwardDistance : 2 ^ 32 - 1 < 2 ^ 32 := by decide
/-- The hypotheses of the accepted EDGE at the first and the last index, with d at both ends of the default band, and of the
out-of-band EDGE at both ends (R96 (a)); no d is both. -/
theorem witness_InBandEdgeAppendsItsDuration (n : Nat) (hn : n = 0 ∨ n = 82) :
    (sampling n).core.cursor.toNat = n ∧ (sampling n).core.cursor.toNat < 83 ∧ (sampling n).core.faulted = false ∧
    (sampling n).core.attached = true ∧ (sampling n).core.finished = false ∧
    ¬ ((sampling n).cfg.errPolicy = .abort ∧ (sampling n).core.error = true) ∧ (sampling n).core.running = true ∧
    (sampling n).cfg.wf = true ∧ 11 = ((1011#32 : Tick).toNat + 2 ^ 32 - (sampling n).core.ref.toNat) % 2 ^ 32 ∧
    99 = ((1099#32 : Tick).toNat + 2 ^ 32 - (sampling n).core.ref.toNat) % 2 ^ 32 ∧
    (sampling n).cfg.capLo < 11 ∧ 99 < (sampling n).cfg.capHi := by
  rcases hn with rfl | rfl <;> decide
theorem witness_LastAppendFinishesTheCapture :
    (sampling 82).core.cursor.toNat = 82 ∧ (sampling 82).core.faulted = false ∧ (sampling 82).core.attached = true ∧
    (sampling 82).core.finished = false ∧ ¬ ((sampling 82).cfg.errPolicy = .abort ∧ (sampling 82).core.error = true) ∧
    (sampling 82).core.running = true ∧ (sampling 82).cfg.wf = true ∧
    30 = ((1030#32 : Tick).toNat + 2 ^ 32 - (sampling 82).core.ref.toNat) % 2 ^ 32 ∧
    (sampling 82).cfg.capLo < 30 ∧ 30 < (sampling 82).cfg.capHi := by decide
theorem witness_OutOfBandEdgeSetsErrorOnly :
    (sampling 40).core.faulted = false ∧ (sampling 40).core.attached = true ∧ (sampling 40).core.finished = false ∧
    ¬ ((sampling 40).cfg.errPolicy = .abort ∧ (sampling 40).core.error = true) ∧ (sampling 40).core.running = true ∧
    10 = ((1010#32 : Tick).toNat + 2 ^ 32 - (sampling 40).core.ref.toNat) % 2 ^ 32 ∧ 10 ≤ (sampling 40).cfg.capLo ∧
    100 = ((1100#32 : Tick).toNat + 2 ^ 32 - (sampling 40).core.ref.toNat) % 2 ^ 32 ∧ (sampling 40).cfg.capHi ≤ 100 ∧
    aborted.core.error = true ∧ decode 0x2000000000#40 ≠ .legal .arm ∧ decode 0x2000000000#40 ≠ .legal .reset := by decide
theorem witness_EdgeChangesOnlyThreeRegisters :
    (∃ t, exec (.edge 1030#32 1#1) (sampling 40) = .next t) ∧
    ¬ ((sampling 40).core.cursor.toNat < 83 ∧ (0x29#8 : Byte).toNat = (sampling 40).core.cursor.toNat) ∧
    (0x29#8 : Byte) ≠ 0x60#8 ∧ (0x29#8 : Byte) ≠ 0x61#8 := ⟨⟨_, rfl⟩, by decide, by decide, by decide⟩

/-- The bands of R97 as a predicate on a buffer. -/
def inBand (cfg : Config) (buf : PulseBuffer) (i : Fin 83) : Prop :=
  if i.val = 0 then cfg.hs0.lo ≤ buf[i.val].toNat ∧ buf[i.val].toNat ≤ cfg.hs0.hi
  else if i.val ≤ 2 then cfg.hs1.lo ≤ buf[i.val].toNat ∧ buf[i.val].toNat ≤ cfg.hs1.hi
  else if i.val % 2 = 1 then cfg.hdr.lo ≤ buf[i.val].toNat ∧ buf[i.val].toNat ≤ cfg.hdr.hi
  else (cfg.vb0.lo ≤ buf[i.val].toNat ∧ buf[i.val].toNat ≤ cfg.vb0.hi) ∨
    (cfg.vb1.lo ≤ buf[i.val].toNat ∧ buf[i.val].toNat ≤ cfg.vb1.hi)

theorem witness_ValidateReportsTheFirstFailure (cfg : Config) (buf : PulseBuffer) : ∀ i : Fin 83, inBand cfg buf i ↔
    if i.val = 0 then cfg.hs0.lo ≤ buf[i.val].toNat ∧ buf[i.val].toNat ≤ cfg.hs0.hi
    else if i.val ≤ 2 then cfg.hs1.lo ≤ buf[i.val].toNat ∧ buf[i.val].toNat ≤ cfg.hs1.hi
    else if i.val % 2 = 1 then cfg.hdr.lo ≤ buf[i.val].toNat ∧ buf[i.val].toNat ≤ cfg.hdr.hi
    else (cfg.vb0.lo ≤ buf[i.val].toNat ∧ buf[i.val].toNat ≤ cfg.vb0.hi) ∨
      (cfg.vb1.lo ≤ buf[i.val].toNat ∧ buf[i.val].toNat ≤ cfg.vb1.hi) := fun _ => Iff.rfl
theorem witness_BitDecodeNeverDefaults : Config.default.wf = true ∧ Config.legacy.wf = true := by decide
/-- The default's premises, and the legacy configuration's at the ends of both gaps. -/
theorem witness_DefaultConfigurationNeverReportsDecodeInvalid :
    (closed (pulses exampleFrame 26#8 70#8)).cfg = Config.default ∧
    validate Config.default (pulses exampleFrame 26#8 70#8) = .pass ∧
    (∃ t, exec .decode (closed (pulses exampleFrame 26#8 70#8)) = .next t) ∧
    (55 ≤ (55#8 : Byte).toNat ∧ (59#8 : Byte).toNat ≤ 59 ∧ 81 ≤ (81#8 : Byte).toNat ∧ (85#8 : Byte).toNat ≤ 85) ∧
    (legacyClosed 55#8).cfg = Config.legacy ∧ (legacyClosed 55#8).core.faulted = false ∧
    (legacyClosed 55#8).core.attached = false ∧ (legacyClosed 55#8).core.running = false ∧
    (legacyClosed 55#8).core.finished = true ∧ (legacyClosed 55#8).core.error = false ∧
    validate Config.legacy (legacyClosed 55#8).core.buf = .pass ∧ (legacyClosed 55#8).core.buf[4].toNat = 55 ∧
    validate Config.legacy (legacyClosed 85#8).core.buf = .pass ∧ (legacyClosed 85#8).core.buf[4].toNat = 85 :=
  ⟨by decide, by decide, ⟨_, rfl⟩, by decide, by decide, by decide, by decide, by decide, by decide, by decide, by decide,
    by decide, by decide, by decide⟩
/-- Two buffers with the same data pulses and different headers. -/
theorem witness_AssemblerReadsOnlyDataPulses :
    (∀ j : Fin 40, (pulses exampleFrame 26#8 70#8)[4 + 2 * j.val] = ((pulses exampleFrame 26#8 70#8).set 3 40#8)[4 + 2 * j.val]) ∧
    pulses exampleFrame 26#8 70#8 ≠ (pulses exampleFrame 26#8 70#8).set 3 40#8 := by decide
/-- An index 7 bits wide that some data pulse has, the last one. -/
theorem witness_AssemblyFailsAtTheFirstInvalidPulse :
    assemble Config.default ((pulses exampleFrame 26#8 70#8).set 82 45#8) = .di 82#7 45#8 := by decide
theorem witness_DecodeWhileAttachedFaults :
    (armed.core.faulted = false ∧ armed.core.attached = true) ∧
    (State.reset.core.faulted = false ∧ State.reset.core.attached = false) := by decide
/-- A clean capture of the example frame, closed. -/
def cleanCore : CoreState := (closed (pulses exampleFrame 26#8 70#8)).core

/-- A closed capture for each of the six outcomes, in R122's order. -/
theorem witness_DecodeWritesTheFirstOutcomeThatApplies :
    (State.reset.core.faulted = false ∧ State.reset.core.attached = false ∧ State.reset.core.finished = false) ∧
    (cleanCore.running = false ∧ cleanCore.finished = true ∧ cleanCore.error = false ∧ cleanCore.attached = false ∧
      cleanCore.faulted = false ∧ validate Config.default cleanCore.buf = .pass ∧
      assemble Config.default cleanCore.buf = .bytes exampleFrame ∧ checksumOk exampleFrame = true) ∧
    validate Config.default ((pulses exampleFrame 26#8 70#8).set 0 51#8) = .sv 0#7 51#8 ∧
    (validate Config.legacy (legacyClosed 59#8).core.buf = .pass ∧
      assemble Config.legacy (legacyClosed 59#8).core.buf = .di 4#7 59#8) ∧
    (assemble Config.default (pulses (exampleFrame.set 4 0x4E#8) 26#8 70#8) = .bytes (exampleFrame.set 4 0x4E#8) ∧
      checksumOk (exampleFrame.set 4 0x4E#8) = false) := by decide
theorem witness_OkOnlyFromACleanCapture :
    ∃ t, exec .decode (closed (pulses exampleFrame 26#8 70#8)) = .next t ∧ t.core.resCode = 1#3 := ⟨_, rfl, by decide⟩
/-- Between the two DECODEs: READ, CLOSE, NOP and an illegal word. -/
theorem witness_DecodeIsIdempotentOnAClosedCapture :
    ∃ t u v, exec .decode (closed (pulses exampleFrame 26#8 70#8)) = .next t ∧
      performs [encode (.read 0x70#8), encode .close, encode .nop, 0x7000000000#40] t = .next u ∧ exec .decode u = .next v ∧
      ∀ w ∈ [encode (.read 0x70#8), encode .close, encode .nop, 0x7000000000#40],
        ¬ IsEdgeWord w ∧ decode w ≠ .legal .arm ∧ decode w ≠ .legal .reset := by
  refine ⟨_, _, _, rfl, rfl, rfl, ?_⟩
  intro w hw
  simp only [List.mem_cons, List.not_mem_nil, or_false] at hw
  rcases hw with rfl | rfl | rfl | rfl <;> exact ⟨(by rintro ⟨_, _, h⟩; cases h), by decide, by decide⟩
theorem witness_ClosedCaptureIsStable :
    State.reset.core.attached = false ∧ (∃ t, performs [encode (.edge 1000#32 0#1), encode .decode] State.reset = .next t) ∧
    ∀ w ∈ [encode (.edge 1000#32 0#1), encode .decode], decode w ≠ .legal .arm ∧ decode w ≠ .legal .reset :=
  ⟨by decide, ⟨_, rfl⟩, by
    intro w hw
    simp only [List.mem_cons, List.not_mem_nil, or_false] at hw
    rcases hw with rfl | rfl <;> decide⟩

/-- A frame with payload bits of both values: bits 0 and 8 are 1, the rest 0, and the sum 0x100 wraps to the checksum byte 0. -/
def mixedFrame : Frame := #v[0x80#8, 0x80#8, 0x00#8, 0x00#8, 0x00#8]

/-- The timestamps of a capture of `mixedFrame`, each duration at the low end of its band: 11, 65, 65, then 40, and 15 for a 0 bit
or 55 for a 1 bit. -/
def mixedTimes : Vector Tick 84 :=
  Vector.ofFn fun n =>
    if n.val = 0 then 0#32 else if n.val = 1 then 11#32 else if n.val = 2 then 76#32
    else BitVec.ofNat 32 (141 + 55 * ((n.val - 3) / 2) + 40 * ((n.val - 3) % 2) + (if 5 ≤ n.val then 40 else 0)
      + (if 21 ≤ n.val then 40 else 0))

/-- The 1 bit takes the 55 to 85 branch at j = 0, the 0 bit the 15 to 35 branch at j = 1. -/
theorem witness_mixedFrame_bits :
    mixedFrame[0].getLsbD 7 = true ∧ (mixedTimes[5] - mixedTimes[4]).toNat = 55 ∧
    mixedFrame[0].getLsbD 6 = false ∧ (mixedTimes[7] - mixedTimes[6]).toNat = 15 := by decide

theorem witness_RoundTripRecoversTheFrame :
    armed.Inv ∧ armed.cfg = Config.default ∧ armed.core.phase = .waitFirst ∧
    (mixedFrame[0].toNat + mixedFrame[1].toNat + mixedFrame[2].toNat + mixedFrame[3].toNat) % 256 = mixedFrame[4].toNat ∧
    (11 ≤ (mixedTimes[1] - mixedTimes[0]).toNat ∧ (mixedTimes[1] - mixedTimes[0]).toNat ≤ 50) ∧
    (65 ≤ (mixedTimes[2] - mixedTimes[1]).toNat ∧ (mixedTimes[2] - mixedTimes[1]).toNat ≤ 95) ∧
    (65 ≤ (mixedTimes[3] - mixedTimes[2]).toNat ∧ (mixedTimes[3] - mixedTimes[2]).toNat ≤ 95) ∧
    (∀ j : Fin 40, 40 ≤ (mixedTimes[4 + 2 * j.val] - mixedTimes[3 + 2 * j.val]).toNat ∧
      (mixedTimes[4 + 2 * j.val] - mixedTimes[3 + 2 * j.val]).toNat ≤ 60) ∧
    (∀ j : Fin 40, if mixedFrame[j.val / 8].getLsbD (7 - j.val % 8)
      then 55 ≤ (mixedTimes[5 + 2 * j.val] - mixedTimes[4 + 2 * j.val]).toNat ∧
        (mixedTimes[5 + 2 * j.val] - mixedTimes[4 + 2 * j.val]).toNat ≤ 85
      else 15 ≤ (mixedTimes[5 + 2 * j.val] - mixedTimes[4 + 2 * j.val]).toNat ∧
        (mixedTimes[5 + 2 * j.val] - mixedTimes[4 + 2 * j.val]).toNat ≤ 35) :=
  ⟨inv_armed, by decide, by decide, by decide, by decide, by decide, by decide, by decide, by decide⟩
theorem witness_ResultRegistersCarryTheOutcome : State.reset.core.resCode = 0#3 := by decide
theorem witness_ValidCaptureSpan :
    validate Config.default (pulses exampleFrame 15#8 85#8) = .pass ∧
    ∀ i : Fin 83, 10 < (pulses exampleFrame 15#8 85#8)[i.val].toNat ∧ (pulses exampleFrame 15#8 85#8)[i.val].toNat < 100 := by
  decide
/-- One word for each cause, and one that raises none. -/
theorem witness_FaultCausesAndTheirConditions :
    armed.core.faulted = false ∧ decode 0x7000000000#40 = .illegal .reservedOp ∧
    (decode (encode .arm) = .legal .arm ∧ decode (encode .decode) = .legal .decode ∧ armed.core.attached = true) ∧
    (∃ t, perform (encode .arm) armed = .next t ∧ t.core.faultCause = 2#2) ∧
    (∃ t, perform (encode .decode) armed = .next t ∧ t.core.faultCause = 3#2) ∧
    (∃ t, perform 0x7000000000#40 armed = .next t ∧ t.core.faultCause = 1#2) ∧
    ∃ t, perform (encode .nop) armed = .next t ∧ t.core.faulted = false :=
  ⟨by decide, by decide, by decide, ⟨_, rfl, by decide⟩, ⟨_, rfl, by decide⟩, ⟨_, rfl, by decide⟩, _, rfl, by decide⟩
theorem witness_FaultsArePrecise :
    (armed.core.faulted = false ∧ ∃ t, perform (encode .arm) armed = .next t ∧ t.core.faulted = true) ∧
    faulted.core.faulted = true ∧ decode 0x7000000000#40 ≠ .legal .reset ∧
    ∃ t, perform 0x7000000000#40 faulted = .next t :=
  ⟨⟨by decide, _, rfl, by decide⟩, by decide, by decide, _, rfl⟩
theorem witness_OnlyResetAndReadActWhileFaulted :
    faulted.core.faulted = true ∧ decode (encode .arm) ≠ .legal .reset ∧ ∀ a, decode (encode .arm) ≠ .legal (.read a) := by decide
theorem witness_AttemptReadingNeverFaults :
    State.reset.core.phase = .detached ∧ (∀ w ∈ [encode (.edge 1000#32 0#1)], IsEdgeWord w) ∧
    Interleave [encode (.edge 1000#32 0#1)] (hostWords (attemptActions { armPoint := 4, retryPeriod := 2000000 } 2#3))
      [encode .arm, encode (.edge 1000#32 0#1), encode .close, encode .decode, encode (.read 0x70#8)] :=
  ⟨by decide, by rintro w hw; cases List.mem_singleton.1 hw; exact ⟨_, _, rfl⟩,
    .right _ (.left _ (.right _ (.right _ (.right _ .nil))))⟩
/-- What an attempt with one EDGE leaves: the capture never filled, RES_CODE 2 was read last. -/
def timedOut : State :=
  { State.reset with
    core := { CoreState.reset with running := true, ref := 1000#32, resCode := 2#3 }
    out := some 2#8 }

/-- One EDGE of the line between ARM and CLOSE: the procedure answers, here with TIMEOUT. -/
theorem witness_AttemptReadingReturnsTheResult :
    State.reset.core.phase = .detached ∧
    (∀ ws ∈ [[], [encode (.edge 1000#32 0#1)]], ∀ w ∈ ws, IsEdgeWord w) ∧
    (attemptReading { armPoint := 4, retryPeriod := 2000000 }).run [[], [encode (.edge 1000#32 0#1)]] State.reset =
      .next (timedOut, some .timeout) := by
  refine ⟨by decide, ?_, ?_⟩
  · intro ws hws w hw
    simp only [List.mem_cons, List.not_mem_nil, or_false] at hws
    rcases hws with rfl | rfl
    · cases hw
    · cases List.mem_singleton.1 hw; exact ⟨_, _, rfl⟩
  · simp only [attemptReading, HostProc.run_acts, HostProc.run_read]
    rfl
/-- The interleaving ARM, EDGE, CLOSE, DECODE, READ 0x70 of the same words, whose run leaves the RES_CODE it is made for. -/
theorem witness_EveryInterleavedAttemptIsARun :
    State.reset.core.phase = .detached ∧ (∀ w ∈ [encode (.edge 1000#32 0#1)], IsEdgeWord w) ∧
    ∃ t, performs [encode .arm, encode (.edge 1000#32 0#1), encode .close, encode .decode, encode (.read 0x70#8)] State.reset =
        .next t ∧
      Interleave [encode (.edge 1000#32 0#1)]
        (hostWords (attemptActions { armPoint := 4, retryPeriod := 2000000 } t.core.resCode))
        [encode .arm, encode (.edge 1000#32 0#1), encode .close, encode .decode, encode (.read 0x70#8)] :=
  ⟨by decide, by rintro w hw; cases List.mem_singleton.1 hw; exact ⟨_, _, rfl⟩, _, rfl,
    .right _ (.left _ (.right _ (.right _ (.right _ .nil))))⟩

end Sys2Proof.Tests
end

section
/-! PROOFS. The step and the configuration (spec/00_scope.md R6, R7, R10, R14, R15). -/

namespace Sys2Proof

theorem Band.wf_iff (b : Band) : b.wf = true ↔ b.lo ≤ b.hi ∧ b.hi ≤ 255 := by
  simp [Band.wf]

/-- R10, clause by clause; ERR_POLICY's clause is its type's. -/
theorem Config.wf_iff (c : Config) : c.wf = true ↔
    (c.capLo < c.capHi ∧ c.capHi ≤ 256) ∧
    (∀ b ∈ [c.hs0, c.hs1, c.hdr, c.vb0, c.vb1, c.db0, c.db1], b.lo ≤ b.hi ∧ b.hi ≤ 255) ∧ c.db0.hi < c.db1.lo := by
  simp only [Config.wf, Bool.and_eq_true, decide_eq_true_eq, Band.wf_iff, List.forall_mem_cons, List.not_mem_nil,
    false_implies, implies_true, and_true, and_assoc]

theorem ErrPolicy.eq_continue_or_abort (p : ErrPolicy) : p = .continue ∨ p = .abort := by
  cases p <;> simp

theorem decode_encode (i : Instr) : decode (encode i) = .legal i := by
  cases i <;> simp [encode, decode]

namespace Machine

/-! ### What a step of the machine does -/

theorem step_of_illFormed {s : State} (h : s.cfg.wf = false) : step s = .refused .illFormedConfig := by
  simp [step, h]

theorem step_of_nextWord {s s' : State} {w : TWord} (hwf : s.cfg.wf = true) (h : nextWord s = some (w, s')) :
    step s = perform w s' := by
  simp [step, hwf, h]

theorem step_of_no_word {s : State} (hwf : s.cfg.wf = true) (h : nextWord s = none) : step s = .next s := by
  simp [step, hwf, h]

/-- Everything a step that answers a next state can do: wait with no word pending, or perform the word delivered. -/
theorem step_cases {s t : State} (h : step s = .next t) :
    s.cfg.wf = true ∧ ((nextWord s = none ∧ t = s) ∨ ∃ w s', nextWord s = some (w, s') ∧ perform w s' = .next t) := by
  cases hwf : s.cfg.wf with
  | false => rw [step_of_illFormed hwf] at h; cases h
  | true =>
    refine ⟨rfl, ?_⟩
    rcases hn : nextWord s with _ | ⟨w, s'⟩
    · rw [step_of_no_word hwf hn] at h; cases h
      exact .inl ⟨rfl, rfl⟩
    · rw [step_of_nextWord hwf hn] at h
      exact .inr ⟨w, s', rfl, h⟩

theorem perform_of_legal {w : TWord} {i : Instr} (h : decode w = .legal i) (s : State) : perform w s = exec i s := by
  simp [perform, h]

theorem perform_of_illegal {w : TWord} {why : Illegal} (h : decode w = .illegal why) (s : State) :
    perform w s = execIllegal s := by
  simp [perform, h]

/-! ### What the output is, and which words are ignored -/

theorem stepOutput_eq_none {d : Decoded} (c : CoreState) (h : ∀ addr, d ≠ .legal (.read addr)) : stepOutput c d = none := by
  cases d with
  | illegal why => rfl
  | legal i =>
    cases i with
    | read addr => exact absurd rfl (h addr)
    | _ => rfl

theorem coreStep_of_faulted (cfg : Config) {c : CoreState} {d : Decoded} (hf : c.faulted = true) (hd : d ≠ .legal .reset) :
    coreStep cfg c d = c := by
  simp [coreStep, hf, hd]

theorem coreStep_of_unfaulted (cfg : Config) {c : CoreState} (d : Decoded) (hf : c.faulted = false) :
    coreStep cfg c d = coreEffect cfg c d := by
  simp [coreStep, hf]

/-- R86, R87 and R88: the three reasons to ignore an EDGE. -/
theorem sampleEdge_of_ignored (cfg : Config) (ts : Tick) {c : CoreState}
    (h : c.attached = false ∨ c.finished = true ∨ (cfg.errPolicy = .abort ∧ c.error = true)) : c.sampleEdge cfg ts = c := by
  rcases sampleEdge_cases cfg ts c with ⟨hc, -⟩ | ⟨ha, hfin, herr, -⟩
  · exact hc
  · simp [ha, hfin, herr] at h

theorem coreStep_edge_of_ignored (cfg : Config) (ts : Tick) (lv : BitVec 1) {c : CoreState}
    (h : c.attached = false ∨ c.finished = true ∨ (cfg.errPolicy = .abort ∧ c.error = true)) :
    coreStep cfg c (.legal (.edge ts lv)) = c := by
  cases hf : c.faulted with
  | true => exact coreStep_of_faulted cfg hf (by simp)
  | false => rw [coreStep_of_unfaulted cfg _ hf, coreEffect, sampleEdge_of_ignored cfg ts h]

/-! ### The obligations -/

/-- Settles O1, by R10 read clause by clause and the guard of the step. -/
theorem illFormedConfigurationIsRefused : Obligations.IllFormedConfigurationIsRefused := by
  refine ⟨fun c => ?_, by decide, by decide, fun s => step_of_illFormed⟩
  simp only [Config.wf_iff, ErrPolicy.eq_continue_or_abort, and_true]

/-- Settles O4, by the rule for a delivery and the two cases of performing a word. -/
theorem stepRunsTheDeliveredTransaction : Obligations.StepRunsTheDeliveredTransaction := by
  refine ⟨fun s s' w hwf hn => ⟨fun i hi => ?_, fun why hi => ?_, ?_, ?_⟩, fun s hwf hl hh => ?_, fun s n w i hwf hi => ?_⟩
  · rw [step_of_nextWord hwf hn, perform_of_legal hi]
  · rw [step_of_nextWord hwf hn, perform_of_illegal hi]
  · rcases nextWord_cases hn with ⟨ls, hl, rfl⟩ | ⟨hs, hh, rfl⟩
    · exact .inl ⟨hl, rfl⟩
    · exact .inr ⟨hh, rfl⟩
  · exact nextWord_frame hn
  · exact step_of_no_word hwf (nextWord_none.2 ⟨hl, hh⟩)
  · rw [step_of_nextWord (s := s.withFetchWord n w) hwf (nextWord_withFetchWord s n w), perform_of_legal hi]

theorem perform_total (w : TWord) (s : State) :
    ∃ t, perform w s = .next t ∧ t.cfg = s.cfg ∧ t.line = s.line ∧ t.host = s.host ∧ t.merge = s.merge :=
  ⟨_, perform_eq w s, rfl, rfl, rfl, rfl⟩

/-- A step under a well-formed configuration answers a next state and keeps the configuration. -/
theorem step_total {s : State} (hwf : s.cfg.wf = true) : ∃ t, step s = .next t ∧ t.cfg = s.cfg := by
  rcases hn : nextWord s with _ | ⟨w, s'⟩
  · exact ⟨s, step_of_no_word hwf hn, rfl⟩
  · obtain ⟨-, hcfg, -⟩ := nextWord_frame hn
    obtain ⟨t, ht, htcfg, -⟩ := perform_total w s'
    exact ⟨t, (step_of_nextWord hwf hn).trans ht, htcfg.trans hcfg⟩

/-- A word with no output that leaves the core as it is leaves everything but the output as it is. -/
theorem perform_of_ignored {w : TWord} {s : State} (hc : coreStep s.cfg s.core (decode w) = s.core)
    (hr : ∀ addr, decode w ≠ .legal (.read addr)) : perform w s = .next { s with out := none } := by
  rw [perform_eq, hc, stepOutput_eq_none s.core hr]

/-- Settles O2, from the one equation for performing a word. -/
theorem everyWordHasAResult : Obligations.EveryWordHasAResult := by
  refine ⟨perform_total, fun w s s' t t' hcfg hcore ht ht' => ?_, fun s => step_total, fun w s hf hreset hread => ?_,
    fun w s hw h => ?_⟩
  · rw [perform_next ht, perform_next ht', hcfg, hcore]
    exact ⟨rfl, rfl⟩
  · exact perform_of_ignored (coreStep_of_faulted s.cfg hf hreset) hread
  · obtain ⟨ts, lv, hd⟩ := hw
    refine perform_of_ignored ?_ (by simp [hd])
    rw [hd, coreStep_edge_of_ignored s.cfg ts lv h]

/-- Settles O26, from the one equation for performing a word. -/
theorem onlyReadHasAnOutput : Obligations.OnlyReadHasAnOutput := by
  intro w s t ht
  rw [perform_next ht]
  refine ⟨fun addr hd => ?_, stepOutput_eq_none s.core⟩
  rw [hd]; rfl

end Machine
end Sys2Proof
end

section
/-! PROOFS. The two streams and their interleavings (spec/00_scope.md R7). -/

namespace Sys2Proof.Machine

/-- The state with other streams and another merge order: nothing that performing a word reads or writes. -/
def State.withStreams (s : State) (ls hs : List TWord) (m : List Agent) : State := { s with line := ls, host := hs, merge := m }

section withStreams
variable (s : State) (ls hs : List TWord) (m : List Agent)
@[simp] theorem State.withStreams_core : (s.withStreams ls hs m).core = s.core := rfl
@[simp] theorem State.withStreams_cfg : (s.withStreams ls hs m).cfg = s.cfg := rfl
@[simp] theorem State.withStreams_line : (s.withStreams ls hs m).line = ls := rfl
@[simp] theorem State.withStreams_host : (s.withStreams ls hs m).host = hs := rfl
@[simp] theorem State.withStreams_out : (s.withStreams ls hs m).out = s.out := rfl
@[simp] theorem State.withStreams_withStreams (ls' hs' : List TWord) (m' : List Agent) :
    (s.withStreams ls hs m).withStreams ls' hs' m' = s.withStreams ls' hs' m' := rfl
end withStreams

/-- A run of words neither reads nor writes the streams. -/
theorem performs_withStreams {ws : List TWord} {s u : State} (ls hs : List TWord) (m : List Agent)
    (h : performs ws s = .next u) : performs ws (s.withStreams ls hs m) = .next (u.withStreams ls hs m) := by
  induction ws generalizing s with
  | nil => cases h; rfl
  | cons w ws ih =>
    rw [performs_cons] at h ⊢
    exact ih h

theorem steps_succ_of_step {n : Nat} {s t : State} (h : step s = .next t) : steps (n + 1) s = steps n t := by
  simp [steps, h]

/-- A run of steps that answers a next state answers one after its first step. -/
theorem exists_step_of_steps_succ {n : Nat} {s t : State} (h : steps (n + 1) s = .next t) :
    ∃ s', step s = .next s' ∧ steps n s' = .next t := by
  cases hs : step s with
  | next s' => exact ⟨s', rfl, by rwa [steps_succ_of_step hs] at h⟩
  | fault r => simp [steps, hs] at h
  | refused r => simp [steps, hs] at h

/-- The step with the line's turn performs the line's next word. -/
theorem step_line {s : State} (hwf : s.cfg.wf = true) (w : TWord) (ls hs : List TWord) (m : List Agent) :
    step (s.withStreams (w :: ls) hs (.line :: m)) = perform w (s.withStreams ls hs m) :=
  step_of_nextWord hwf (nextWord_line rfl rfl)

/-- The step with the host's turn performs the host's next word. -/
theorem step_host {s : State} (hwf : s.cfg.wf = true) (w : TWord) (ls hs : List TWord) (m : List Agent) :
    step (s.withStreams ls (w :: hs) (.host :: m)) = perform w (s.withStreams ls hs m) :=
  step_of_nextWord hwf (nextWord_host rfl rfl)

/-- Every interleaving has a merge order under which the steps perform it and use both streams up. -/
theorem exists_merge_of_interleave {ls hs ws : List TWord} (h : Interleave ls hs ws) :
    ∃ m, ∀ s u : State, performs ws s = .next u → s.cfg.wf = true →
      steps ws.length (s.withStreams ls hs m) = .next (u.withStreams [] [] []) := by
  induction h with
  | nil => exact ⟨[], fun s u hu _ => by cases hu; rfl⟩
  | left w _ ih =>
    obtain ⟨m, hm⟩ := ih
    refine ⟨.line :: m, fun s u hu hwf => ?_⟩
    rw [performs_cons] at hu
    have hrest := hm _ u hu hwf
    exact (steps_succ_of_step ((step_line hwf ..).trans (perform_eq ..))).trans hrest
  | right w _ ih =>
    obtain ⟨m, hm⟩ := ih
    refine ⟨.host :: m, fun s u hu hwf => ?_⟩
    rw [performs_cons] at hu
    have hrest := hm _ u hu hwf
    exact (steps_succ_of_step ((step_host hwf ..).trans (perform_eq ..))).trans hrest

/-- A step takes at most one word off the front of one stream, and performs it. -/
theorem interleave_of_step {s t : State} (h : step s = .next t) :
    ∃ ls hs ws, s.line = ls ++ t.line ∧ s.host = hs ++ t.host ∧ Interleave ls hs ws ∧
      performs ws s = .next (t.withStreams s.line s.host s.merge) := by
  obtain ⟨-, ⟨-, rfl⟩ | ⟨w, s', hn, ht⟩⟩ := step_cases h
  · exact ⟨[], [], [], rfl, rfl, .nil, rfl⟩
  · rw [perform_next ht]
    rcases nextWord_cases hn with ⟨ls, hl, rfl⟩ | ⟨hs, hh, rfl⟩
    · exact ⟨[w], [], [w], hl, rfl, .left w .nil, performs_cons⟩
    · exact ⟨[], [w], [w], rfl, hh, .right w .nil, performs_cons⟩

theorem Interleave.append {α : Type} {xs ys zs xs' ys' zs' : List α} (h : Interleave xs ys zs) (h' : Interleave xs' ys' zs') :
    Interleave (xs ++ xs') (ys ++ ys') (zs ++ zs') := by
  induction h with
  | nil => exact h'
  | left x _ ih => exact .left x ih
  | right y _ ih => exact .right y ih

/-- Steps take words off the front of the streams and perform an interleaving of them. -/
theorem interleave_of_steps {n : Nat} {s t : State} (h : steps n s = .next t) :
    ∃ ls hs ws, s.line = ls ++ t.line ∧ s.host = hs ++ t.host ∧ Interleave ls hs ws ∧
      performs ws s = .next (t.withStreams s.line s.host s.merge) := by
  induction n generalizing s with
  | zero => cases h; exact ⟨[], [], [], rfl, rfl, .nil, rfl⟩
  | succ n ih =>
    obtain ⟨s', hstep, hrest⟩ := exists_step_of_steps_succ h
    obtain ⟨ls, hs, ws, hl, hh, hi, hp⟩ := interleave_of_step hstep
    obtain ⟨ls', hs', ws', hl', hh', hi', hp'⟩ := ih hrest
    refine ⟨ls ++ ls', hs ++ hs', ws ++ ws', ?_, ?_, hi.append hi', ?_⟩
    · rw [hl, hl', List.append_assoc]
    · rw [hh, hh', List.append_assoc]
    · rw [performs_append_andThen, hp, andThen_next, performs_withStreams _ _ _ hp', State.withStreams_withStreams]

/-- Settles O3: an interleaving gives its merge order, and steps give an interleaving, each by induction. -/
theorem everyInterleavingIsARun : Obligations.EveryInterleavingIsARun := by
  refine ⟨fun s ls hs ws hwf hi => ?_, fun n s t h => ?_⟩
  · obtain ⟨m, hm⟩ := exists_merge_of_interleave hi
    obtain ⟨u, hu, -⟩ := performs_total ws s
    exact ⟨m, _, u, hm s u hu hwf, hu, rfl, rfl, rfl, rfl⟩
  · obtain ⟨ls, hs, ws, hl, hh, hi, hp⟩ := interleave_of_steps h
    exact ⟨ls, hs, ws, _, hl, hh, hi, hp, rfl, rfl⟩

end Sys2Proof.Machine
end

section
/-! PROOFS. One attempt of the host among the line's EDGE words (spec/00_scope.md R7, spec/70_reset_and_hazards.md R148): up to
DECODE the core is followed through its phases; after DECODE it is detached, so no EDGE and no READ changes it any more. -/

namespace Sys2Proof.Machine

/-! ### Runs of EDGE and READ words -/

theorem phase_eq_detached_iff (c : CoreState) : c.phase = .detached ↔ c.faulted = false ∧ c.attached = false := by
  unfold CoreState.phase
  split
  · simp_all
  · split
    · simp_all
    · split
      · simp_all
      · split <;> simp_all

/-- An EDGE or a READ: all that an attempt performs after its DECODE. -/
def IsEdgeOrRead (w : TWord) : Prop := IsEdgeWord w ∨ ∃ addr, decode w = .legal (.read addr)

theorem isEdgeOrRead_encode_read (addr : Byte) : IsEdgeOrRead (encode (.read addr)) :=
  .inr ⟨addr, decode_encode _⟩

/-- Neither an EDGE nor a READ changes a detached core (R78, R86). -/
theorem coreStep_of_detached (cfg : Config) {c : CoreState} {w : TWord} (hc : c.attached = false) (hw : IsEdgeOrRead w) :
    coreStep cfg c (decode w) = c := by
  rcases hw with ⟨ts, lv, hd⟩ | ⟨addr, hd⟩
  · rw [hd, coreStep_edge_of_ignored cfg ts lv (.inl hc)]
  · simp [hd, coreStep, coreEffect]

theorem performs_of_detached {ws : List TWord} {s t : State} (hc : s.core.attached = false) (hws : ∀ w ∈ ws, IsEdgeOrRead w)
    (h : performs ws s = .next t) : t.core = s.core := by
  refine performs_induct (P := fun u => u.core = s.core) (fun w hw u hu => ?_) rfl h
  rw [← hu] at hc
  exact (coreStep_of_detached u.cfg hc (hws w hw)).trans hu

theorem performs_edges_read_of_detached {es : List TWord} {addr : Byte} {s t : State} (hc : s.core.attached = false)
    (hes : ∀ w ∈ es, IsEdgeWord w) (h : performs (es ++ [encode (.read addr)]) s = .next t) : t.core = s.core := by
  refine performs_of_detached hc (fun w hw => ?_) h
  rcases List.mem_append.1 hw with hw | hw
  · exact .inl (hes w hw)
  · rw [List.mem_singleton.1 hw]; exact isEdgeOrRead_encode_read addr

/-- An EDGE neither attaches, detaches nor faults a core (R96). -/
theorem coreStep_edge_frame (cfg : Config) (c : CoreState) {w : TWord} (hw : IsEdgeWord w) :
    (coreStep cfg c (decode w)).attached = c.attached ∧ (coreStep cfg c (decode w)).faulted = c.faulted := by
  obtain ⟨ts, lv, hd⟩ := hw
  rw [hd]
  cases hf : c.faulted with
  | true => rw [coreStep_of_faulted cfg hf (by simp)]; exact ⟨rfl, hf⟩
  | false =>
    rw [coreStep_of_unfaulted cfg _ hf, coreEffect]
    rcases sampleEdge_cases cfg ts c with ⟨h, -⟩ | ⟨-, -, -, ⟨-, h⟩ | ⟨-, -, h⟩ | ⟨-, -, h⟩⟩ <;> simp [h, hf]

theorem performs_edges_frame {es : List TWord} {s t : State} (hes : ∀ w ∈ es, IsEdgeWord w) (h : performs es s = .next t) :
    t.core.attached = s.core.attached ∧ t.core.faulted = s.core.faulted := by
  refine performs_induct (P := fun u => u.core.attached = s.core.attached ∧ u.core.faulted = s.core.faulted)
    (fun w hw u ⟨ha, hf⟩ => ?_) ⟨rfl, rfl⟩ h
  obtain ⟨ha', hf'⟩ := coreStep_edge_frame u.cfg u.core (hes w hw)
  exact ⟨ha'.trans ha, hf'.trans hf⟩

/-- EDGE words and then a transaction, on an unfaulted core: the transaction has its effect on a core that is attached as before. -/
theorem performs_edges_then (i : Instr) {es : List TWord} {s : State} (hes : ∀ w ∈ es, IsEdgeWord w)
    (hf : s.core.faulted = false) : ∃ u t : State, performs (es ++ [encode i]) s = .next t ∧
      t.core = coreEffect u.cfg u.core (.legal i) ∧ u.core.attached = s.core.attached ∧ u.core.faulted = false := by
  obtain ⟨u, hu, -⟩ := performs_total es s
  obtain ⟨ha, hf'⟩ := performs_edges_frame hes hu
  have hrun : performs (es ++ [encode i]) s = perform (encode i) u := by
    rw [performs_append_andThen, hu, andThen_next, performs_cons, performs_nil, perform_eq]
  refine ⟨u, _, hrun.trans (perform_eq _ _), ?_, ha, hf'.trans hf⟩
  rw [decode_encode]
  exact coreStep_of_unfaulted _ _ (hf'.trans hf)

/-! ### The line's deliveries -/

/-- A delivery of the line that holds EDGE words only (R67). -/
def EdgesOnly (line : List (List TWord)) : Prop := ∀ ws ∈ line, ∀ w ∈ ws, IsEdgeWord w

theorem edgesOnly_iff_flatten (line : List (List TWord)) : EdgesOnly line ↔ ∀ w ∈ line.flatten, IsEdgeWord w := by
  simp only [EdgesOnly, List.mem_flatten]
  exact ⟨fun h w ⟨ws, hws, hw⟩ => h ws hws w hw, fun h ws hws w hw => h w ⟨ws, hws, hw⟩⟩

theorem EdgesOnly.headD {line : List (List TWord)} (h : EdgesOnly line) : ∀ w ∈ line.headD [], IsEdgeWord w := by
  cases line with
  | nil => simp
  | cons ws line => exact h ws List.mem_cons_self

theorem EdgesOnly.drop {line : List (List TWord)} (h : EdgesOnly line) (n : Nat) : EdgesOnly (line.drop n) :=
  fun ws hws => h ws (List.mem_of_mem_drop hws)

theorem EdgesOnly.tail {line : List (List TWord)} (h : EdgesOnly line) : EdgesOnly line.tail :=
  fun ws hws => h ws (List.mem_of_mem_tail hws)

/-- A delivery's first words are the line's first list and the host's first word. -/
theorem performs_weave_cons (w : TWord) (hs : List TWord) (line : List (List TWord)) (s : State) :
    performs (weave (w :: hs) line) s = andThen (performs (line.headD [] ++ [w]) s) (performs (weave hs line.tail)) := by
  rw [← performs_append_andThen, weave, List.append_assoc, List.singleton_append]

theorem Interleave.mem {α : Type} {xs ys zs : List α} {z : α} (h : Interleave xs ys zs) (hz : z ∈ zs) : z ∈ xs ∨ z ∈ ys := by
  induction h with
  | nil => exact .inl hz
  | left x _ ih =>
    rcases List.mem_cons.1 hz with rfl | hz
    · exact .inl List.mem_cons_self
    · exact (ih hz).imp_left (List.mem_cons_of_mem x)
  | right y _ ih =>
    rcases List.mem_cons.1 hz with rfl | hz
    · exact .inr List.mem_cons_self
    · exact (ih hz).imp_right (List.mem_cons_of_mem y)

/-! ### The words of an attempt -/

/-- The words of R148's steps 1 to 6. -/
def attemptWords : List TWord := [encode .arm, encode .close, encode .decode]

/-- The words of a list of READs. -/
def readWords (addrs : List Byte) : List TWord := addrs.map fun addr => encode (.read addr)

@[simp] theorem readWords_nil : readWords [] = [] := rfl
@[simp] theorem readWords_cons (addr : Byte) (addrs : List Byte) :
    readWords (addr :: addrs) = encode (.read addr) :: readWords addrs := rfl

/-- The READs of step 7 for a RES_CODE and what the line delivers before each and after them. -/
def resultDelivery (code : BitVec 3) (line : List (List TWord)) : List TWord :=
  weave (readWords (0x70#8 :: resultAddresses code)) line ++
    (line.drop (readWords (0x70#8 :: resultAddresses code)).length).flatten

theorem handshake_word {p : HostParams} {a : HostAction} (h : a ∈ handshake p) : a.word = none := by
  simp only [handshake, List.mem_cons, List.not_mem_nil, or_false] at h
  rcases h with rfl | rfl | rfl | rfl | rfl <;> rfl

/-- Wherever ARM_POINT is, the handshake's actions issue no word (R4, R80 to R83). -/
theorem hostWords_attemptSteps (p : HostParams) : hostWords (attemptSteps p) = attemptWords := by
  have htake : ((handshake p).take p.armPoint).filterMap HostAction.word = [] :=
    List.filterMap_eq_nil_iff.2 fun a ha => handshake_word (List.mem_of_mem_take ha)
  have hdrop : ((handshake p).drop p.armPoint).filterMap HostAction.word = [] :=
    List.filterMap_eq_nil_iff.2 fun a ha => handshake_word (List.mem_of_mem_drop ha)
  simp [hostWords, attemptSteps, attemptWords, List.filterMap_cons, HostAction.word, htake, hdrop]

theorem hostWords_resultReads (code : BitVec 3) :
    hostWords (resultReads code) = readWords (0x70#8 :: resultAddresses code) := by
  simp only [hostWords, resultReads, readWords, List.filterMap_map]
  exact congrFun (List.filterMap_eq_map (f := fun addr => encode (.read addr))) _

theorem hostWords_attemptActions (p : HostParams) (code : BitVec 3) :
    hostWords (attemptActions p code) = attemptWords ++ readWords (0x70#8 :: resultAddresses code) := by
  rw [← hostWords_attemptSteps p, ← hostWords_resultReads]
  exact List.filterMap_append

/-- A delivery of a whole attempt is one of its first words, and then one of its READs. -/
theorem weave_attemptActions (p : HostParams) (code : BitVec 3) (line : List (List TWord)) :
    weave (hostWords (attemptActions p code)) line ++ (line.drop (hostWords (attemptActions p code)).length).flatten =
      weave attemptWords line ++ resultDelivery code (line.drop attemptWords.length) := by
  rw [hostWords_attemptActions, weave_append, List.length_append, ← List.drop_drop, List.append_assoc, resultDelivery]

theorem isEdgeOrRead_resultDelivery {code : BitVec 3} {line : List (List TWord)} (hl : EdgesOnly line) :
    ∀ w ∈ resultDelivery code line, IsEdgeOrRead w := by
  intro w hw
  rcases (interleave_weave _ _).mem hw with hline | hread
  · exact .inl ((edgesOnly_iff_flatten line).1 hl w hline)
  · obtain ⟨addr, -, rfl⟩ := List.mem_map.1 hread
    exact isEdgeOrRead_encode_read addr

/-! ### The attempt up to DECODE -/

/-- From DETACHED, ARM, CLOSE and DECODE among EDGE words leave the core detached and unfaulted, with an outcome in RES_CODE. -/
theorem performs_attemptWords {line : List (List TWord)} {s : State} (hs : s.core.phase = .detached) (hl : EdgesOnly line) :
    ∃ (t : State) (o : Reading), performs (weave attemptWords line) s = .next t ∧ t.core.attached = false ∧
      t.core.faulted = false ∧ t.core.resCode = o.code := by
  obtain ⟨hf, ha⟩ := (phase_eq_detached_iff _).1 hs
  obtain ⟨u₁, s₁, h₁, hc₁, ha₁, hf₁⟩ := performs_edges_then .arm hl.headD hf
  have harm : s₁.core = u₁.core.arm := by simp [hc₁, coreEffect, ha₁, ha]
  obtain ⟨u₂, s₂, h₂, hclose, -, hf₂⟩ := performs_edges_then .close (s := s₁) hl.tail.headD (by rw [harm]; exact hf₁)
  rw [coreEffect] at hclose
  obtain ⟨u₃, s₃, h₃, hc₃, ha₃, hf₃⟩ := performs_edges_then .decode (s := s₂) hl.tail.tail.headD (by rw [hclose]; exact hf₂)
  rw [hclose] at ha₃
  have hdecode : s₃.core = u₃.core.writeResult (evaluate u₃.cfg u₃.core) := by simp [hc₃, coreEffect, ha₃]
  refine ⟨s₃, evaluate u₃.cfg u₃.core, ?_, ?_⟩
  · rw [attemptWords, performs_weave_cons, h₁, andThen_next, performs_weave_cons, h₂, andThen_next, performs_weave_cons, h₃]
    rfl
  · rw [hdecode]
    exact ⟨ha₃, hf₃, rfl⟩

/-! ### The attempt after DECODE -/

/-- A list of READs issued while the core is detached: the procedure goes on with the bytes at their addresses. -/
theorem HostProc.run_reads (addrs : List Byte) (next : List Byte → HostProc) {line : List (List TWord)} {s : State}
    (hd : s.core.attached = false) (hl : EdgesOnly line) :
    (HostProc.reads addrs next).run line s =
      andThen (performs (weave (readWords addrs) line) s) fun t =>
        (next (addrs.map (memRead s.core))).run (line.drop (readWords addrs).length) t := by
  induction addrs generalizing next line s with
  | nil => rfl
  | cons addr addrs ih =>
    obtain ⟨t, ht, -⟩ := performs_total (line.headD [] ++ [encode (.read addr)]) s
    have hcore : t.core = s.core := performs_edges_read_of_detached hd hl.headD ht
    have hd' : t.core.attached = false := by rw [hcore, hd]
    rw [HostProc.reads, HostProc.run_read, ht, andThen_next, ih _ hd' hl.tail, readWords_cons, performs_weave_cons, ht,
      andThen_next, hcore, List.map_cons, List.length_cons, List.drop_tail]

theorem setWidth_resCodeByte (c : CoreState) : c.resCodeByte.setWidth 3 = c.resCode := by
  have h : c.resCodeByte.toNat = 0 * 2 ^ 3 + c.resCode.toNat := append_toNat 0#5 c.resCode
  exact BitVec.eq_of_toNat_eq (by rw [BitVec.toNat_setWidth, h]; omega)

/-- Steps 7 and 8 of `attemptReading`. -/
def readResult : HostProc :=
  .read 0x70#8 fun c => .reads (resultAddresses (c.setWidth 3)) fun bs => .done (returned (c.setWidth 3) bs)

theorem attemptReading_eq (p : HostParams) : attemptReading p = .acts (attemptSteps p) readResult := rfl

/-- Steps 7 and 8 from a detached core: the READs that RES_CODE requires, and the Result of their bytes. -/
theorem run_readResult {line : List (List TWord)} {s : State} (hd : s.core.attached = false) (hl : EdgesOnly line) :
    readResult.run line s = andThen (performs (resultDelivery s.core.resCode line) s) fun t =>
      .next (t, returned s.core.resCode ((resultAddresses s.core.resCode).map (memRead s.core))) := by
  obtain ⟨t, ht, -⟩ := performs_total (line.headD [] ++ [encode (.read 0x70#8)]) s
  have hcore : t.core = s.core := performs_edges_read_of_detached hd hl.headD ht
  have hd' : t.core.attached = false := by rw [hcore, hd]
  rw [readResult, HostProc.run_read, ht, andThen_next, hcore, memRead_resCode, setWidth_resCodeByte,
    HostProc.run_reads _ _ hd' hl.tail, hcore, resultDelivery, readWords_cons, performs_append_andThen,
    performs_weave_cons, ht, andThen_next, andThen_assoc, List.length_cons, ← List.drop_tail]
  rfl

/-- Every outcome of DECODE has a Result (R127). -/
theorem exists_returned (o : Reading) (f : Byte → Byte) : ∃ r, returned o.code ((resultAddresses o.code).map f) = some r := by
  cases o <;> exact ⟨_, rfl⟩

/-- Settles O58: an interleaving is a delivery; its run passes the state after DECODE, whose core, RES_CODE with it, the rest of the
run keeps, so the READs of the procedure are those of the interleaving. -/
theorem everyInterleavedAttemptIsARun : Obligations.EveryInterleavedAttemptIsARun := by
  intro p s t edges ws hs hedges hi hrun
  obtain ⟨line, rfl, rfl⟩ := exists_weave hi
  have hl : EdgesOnly line := (edgesOnly_iff_flatten line).2 hedges
  obtain ⟨u, o, hu, hd, -, ho⟩ := performs_attemptWords hs hl
  rw [weave_attemptActions, performs_append_andThen, hu, andThen_next] at hrun
  have hcore : t.core = u.core := performs_of_detached hd (isEdgeOrRead_resultDelivery (hl.drop _)) hrun
  obtain ⟨r, hr⟩ := exists_returned o (memRead u.core)
  refine ⟨line, r, rfl, ?_⟩
  rw [hcore] at hrun
  rw [attemptReading_eq, HostProc.run_acts, hostWords_attemptSteps, hu, andThen_next, run_readResult hd (hl.drop _), hrun,
    andThen_next, ho, hr]

end Sys2Proof.Machine
end

section
/-! PROOFS. Frames: which transactions leave which fields of the core alone (spec/10_state.md R20 to R32, spec/20_memory.md R50). -/

namespace Sys2Proof

/-- Each transaction has one word: the decoder takes no other word to it (R63, R64). -/
theorem encode_of_decode {w : TWord} {i : Instr} (h : decode w = .legal i) : encode i = w := by
  unfold decode at h
  split_ifs at h with hw hw hw hw hw hw hw <;> cases h
  exacts [(eq_formatC hw.1 hw.2).symm, (eq_formatC hw.1 hw.2).symm, (eq_formatC hw.1 hw.2).symm, (eq_formatC hw.1 hw.2).symm,
    (eq_formatE hw.1 hw.2).symm, (eq_formatR hw.1 hw.2).symm, (eq_formatC hw.1 hw.2).symm]

namespace Machine

/-! ### The three groups of fields -/

/-- The fields of the capture: what EDGE, ARM and RESET write (R20 to R27). -/
def CoreState.capture (c : CoreState) : PulseBuffer × Index × Tick × Bool × Bool × Bool :=
  (c.buf, c.cursor, c.ref, c.running, c.finished, c.error)

/-- The result registers: what DECODE, ARM and RESET write (R29, R30). -/
def CoreState.resultRegs (c : CoreState) : BitVec 3 × Index × Byte × Frame := (c.resCode, c.violIndex, c.violMeas, c.frame)

/-- The two fault registers (R32). -/
def CoreState.faultRegs (c : CoreState) : Bool × BitVec 2 := (c.faulted, c.faultCause)

theorem capture_eq_iff {c c' : CoreState} : c'.capture = c.capture ↔
    c'.buf = c.buf ∧ c'.cursor = c.cursor ∧ c'.ref = c.ref ∧ c'.running = c.running ∧ c'.finished = c.finished ∧
      c'.error = c.error := by
  simp only [CoreState.capture, Prod.mk.injEq]

theorem resultRegs_eq_iff {c c' : CoreState} : c'.resultRegs = c.resultRegs ↔
    c'.resCode = c.resCode ∧ c'.violIndex = c.violIndex ∧ c'.violMeas = c.violMeas ∧ c'.frame = c.frame := by
  simp only [CoreState.resultRegs, Prod.mk.injEq]

theorem faultRegs_eq_iff {c c' : CoreState} :
    c'.faultRegs = c.faultRegs ↔ c'.faulted = c.faulted ∧ c'.faultCause = c.faultCause := by
  simp only [CoreState.faultRegs, Prod.mk.injEq]

/-! ### What each transaction leaves alone -/

/-- A step ignores its word or lets the transaction have its effect: what is true of both outcomes is true of the step. -/
theorem coreStep_of_both {P : CoreState → Prop} {cfg : Config} {c : CoreState} {d : Decoded} (hkeep : P c)
    (heffect : P (coreEffect cfg c d)) : P (coreStep cfg c d) := by
  unfold coreStep
  split
  · exact hkeep
  · exact heffect

/-- EDGE writes the capture and nothing else (R96). -/
theorem sampleEdge_frame (cfg : Config) (ts : Tick) (c : CoreState) :
    (c.sampleEdge cfg ts).attached = c.attached ∧ (c.sampleEdge cfg ts).resultRegs = c.resultRegs ∧
      (c.sampleEdge cfg ts).faultRegs = c.faultRegs := by
  rcases sampleEdge_cases cfg ts c with ⟨h, -⟩ | ⟨-, -, -, ⟨-, h⟩ | ⟨-, -, h⟩ | ⟨-, -, h⟩⟩ <;>
    (rw [h]; exact ⟨rfl, rfl, rfl⟩)

theorem coreStep_capture (cfg : Config) (c : CoreState) {d : Decoded} (hedge : ∀ ts lv, d ≠ .legal (.edge ts lv))
    (harm : d ≠ .legal .arm) (hreset : d ≠ .legal .reset) : (coreStep cfg c d).capture = c.capture := by
  refine coreStep_of_both (P := fun c' => c'.capture = c.capture) rfl ?_
  cases d with
  | illegal why => rfl
  | legal i =>
    cases i with
    | arm => exact absurd rfl harm
    | edge ts lv => exact absurd rfl (hedge ts lv)
    | reset => exact absurd rfl hreset
    | decode => rw [coreEffect]; split <;> rfl
    | nop | close | read addr => rfl

theorem coreStep_attached (cfg : Config) (c : CoreState) {d : Decoded} (harm : d ≠ .legal .arm) (hclose : d ≠ .legal .close)
    (hreset : d ≠ .legal .reset) : (coreStep cfg c d).attached = c.attached := by
  refine coreStep_of_both (P := fun c' => c'.attached = c.attached) rfl ?_
  cases d with
  | illegal why => rfl
  | legal i =>
    cases i with
    | arm => exact absurd rfl harm
    | close => exact absurd rfl hclose
    | reset => exact absurd rfl hreset
    | decode => rw [coreEffect]; split <;> rfl
    | edge ts lv => exact (sampleEdge_frame cfg ts c).1
    | nop | read addr => rfl

theorem coreStep_resultRegs (cfg : Config) (c : CoreState) {d : Decoded} (hdecode : d ≠ .legal .decode)
    (harm : d ≠ .legal .arm) (hreset : d ≠ .legal .reset) : (coreStep cfg c d).resultRegs = c.resultRegs := by
  refine coreStep_of_both (P := fun c' => c'.resultRegs = c.resultRegs) rfl ?_
  cases d with
  | illegal why => rfl
  | legal i =>
    cases i with
    | arm => exact absurd rfl harm
    | decode => exact absurd rfl hdecode
    | reset => exact absurd rfl hreset
    | edge ts lv => exact (sampleEdge_frame cfg ts c).2.1
    | nop | close | read addr => rfl

theorem coreStep_faultRegs (cfg : Config) (c : CoreState) {i : Instr} (harm : i ≠ .arm) (hdecode : i ≠ .decode)
    (hreset : i ≠ .reset) : (coreStep cfg c (.legal i)).faultRegs = c.faultRegs := by
  refine coreStep_of_both (P := fun c' => c'.faultRegs = c.faultRegs) rfl ?_
  cases i with
  | arm => exact absurd rfl harm
  | decode => exact absurd rfl hdecode
  | reset => exact absurd rfl hreset
  | edge ts lv => exact (sampleEdge_frame cfg ts c).2.2
  | nop | close | read addr => rfl

/-- ARM ends in a core whose capture stands as it was, or clears the capture and touches no fault register (R76). -/
theorem coreStep_arm_cases (cfg : Config) (c : CoreState) :
    (coreStep cfg c (.legal .arm)).capture = c.capture ∨
    ((coreStep cfg c (.legal .arm)).faulted = c.faulted ∧ (coreStep cfg c (.legal .arm)).cursor = 0#7) := by
  refine coreStep_of_both (P := fun c' => c'.capture = c.capture ∨ (c'.faulted = c.faulted ∧ c'.cursor = 0#7)) (.inl rfl) ?_
  rw [coreEffect]
  split
  · exact .inl rfl
  · exact .inr ⟨rfl, rfl⟩

theorem coreStep_reset (cfg : Config) (c : CoreState) : coreStep cfg c (.legal .reset) = CoreState.reset := by
  simp [coreStep, coreEffect]

/-- Settles O10, from one frame lemma for each group of fields. -/
theorem onlyTheNamedTransactionsWriteAField : Obligations.OnlyTheNamedTransactionsWriteAField := by
  intro i s t ht
  rw [exec_next ht]
  refine ⟨⟨rfl, rfl, rfl, rfl⟩, fun hedge harm hreset => ?_, fun harm hclose hreset => ?_, fun hdecode harm hreset => ?_,
    fun harm hdecode hreset => ?_, ?_⟩
  · exact capture_eq_iff.1 (coreStep_capture s.cfg s.core (by simpa using hedge) (by simpa using harm) (by simpa using hreset))
  · exact coreStep_attached s.cfg s.core (by simpa using harm) (by simpa using hclose) (by simpa using hreset)
  · exact resultRegs_eq_iff.1
      (coreStep_resultRegs s.cfg s.core (by simpa using hdecode) (by simpa using harm) (by simpa using hreset))
  · exact faultRegs_eq_iff.1 (coreStep_faultRegs s.cfg s.core harm hdecode hreset)
  · rintro rfl
    rcases coreStep_arm_cases s.cfg s.core with hcapture | ⟨hfaulted, -⟩
    · obtain ⟨hbuf, hcursor, -⟩ := capture_eq_iff.1 hcapture
      exact .inr ⟨hbuf, hcursor⟩
    · exact .inl hfaulted

end Machine
end Sys2Proof
end

section
/-! PROOFS. The invariants of the capture, result and fault registers (spec/10_state.md R21, R25, R26, R29, R30, R32,
spec/45_checksum_decode.md R124): each transaction's effect keeps them. -/

namespace Sys2Proof.Machine

variable {cfg : Config} {c c' : CoreState}

/-! ### The invariant of the capture -/

/-- The invariant of the capture reads no other field. -/
theorem CoreState.CaptureInv.congr (h : c.CaptureInv cfg) (hc : c'.capture = c.capture) : c'.CaptureInv cfg := by
  obtain ⟨hbuf, hcursor, href, hrunning, hfinished, herror⟩ := capture_eq_iff.1 hc
  constructor <;> simp only [hbuf, hcursor, href, hrunning, hfinished, herror]
  exacts [h.cursor_le, h.finished_iff, h.finished_stops, h.idle_clear, h.started, h.abort_unfinished, h.unwritten, h.written]

theorem captureInv_reset (cfg : Config) : CoreState.reset.CaptureInv cfg where
  cursor_le := by decide
  finished_iff := by decide
  finished_stops := by decide
  idle_clear _ _ := ⟨rfl, rfl, rfl⟩
  started h := absurd h (by decide)
  abort_unfinished _ _ := rfl
  unwritten i _ := by simp
  written i hi := absurd hi (Nat.not_lt_zero _)

theorem CoreState.CaptureInv.cursor_lt (h : c.CaptureInv cfg) (hfin : c.finished = false) : c.cursor.toNat < 83 := by
  have hle := h.cursor_le
  have hne : c.cursor.toNat ≠ 83 := fun h83 => by simp [h.finished_iff.2 h83] at hfin
  omega

/-- Below 83 the cursor's 7 bits do not wrap. -/
theorem cursor_succ_toNat (hlt : c.cursor.toNat < 83) : (c.cursor + 1#7).toNat = c.cursor.toNat + 1 := by
  rw [BitVec.toNat_add, BitVec.toNat_ofNat]; omega

theorem cursor_succ_eq_cap_iff (hlt : c.cursor.toNat < 83) : c.cursor + 1#7 = 83#7 ↔ c.cursor.toNat + 1 = 83 := by
  rw [← BitVec.toNat_inj, cursor_succ_toNat hlt, BitVec.toNat_ofNat]

/-- R89: the first EDGE of a capture. -/
theorem CoreState.CaptureInv.firstEdge (h : c.CaptureInv cfg) (hfin : c.finished = false) (ts : Tick) :
    ({ c with ref := ts, running := true } : CoreState).CaptureInv cfg :=
  { h with
    finished_stops := fun hf => by simp [hfin] at hf
    idle_clear := fun hr => by simp at hr
    started := fun _ => .inl rfl }

/-- R93: an EDGE out of the capture band. -/
theorem CoreState.CaptureInv.setError (h : c.CaptureInv cfg) (hrun : c.running = true) (hfin : c.finished = false) :
    ({ c with error := true } : CoreState).CaptureInv cfg :=
  { h with
    idle_clear := fun hr => by simp [hrun] at hr
    abort_unfinished := fun _ _ => hfin }

/-- R91, R92: an accepted EDGE. The 83rd append finishes the capture, every other one leaves it running. -/
theorem CoreState.CaptureInv.appendPulse (h : c.CaptureInv cfg) (hwf : cfg.wf = true) (hrun : c.running = true)
    (hfin : c.finished = false) (hgo : ¬ (cfg.errPolicy = .abort ∧ c.error = true)) (ts : Tick) {d : Tick}
    (hd : inCaptureBand cfg d = true) : (c.appendPulse ts d).CaptureInv cfg := by
  have hlt := h.cursor_lt hfin
  have hnext := cursor_succ_toNat hlt
  have hlast := cursor_succ_eq_cap_iff hlt
  constructor
  case cursor_le => simp only [appendPulse_cursor, hnext]; omega
  case finished_iff => simp [hnext, hlast, hfin]
  case finished_stops => simp +contextual [hfin]
  case idle_clear => simp +contextual [hrun]
  case started => intro _; by_cases hfull : c.cursor + 1#7 = 83#7 <;> simp [hfull, hrun]
  case abort_unfinished => exact fun hp he => absurd ⟨hp, he⟩ hgo
  case unwritten =>
    intro i hi
    simp only [appendPulse_cursor, hnext] at hi
    rw [appendPulse_buf, Vector.getElem_setIfInBounds_ne _ (by omega)]
    exact h.unwritten i (by omega)
  case written =>
    intro i hi
    simp only [appendPulse_cursor, hnext] at hi
    by_cases hlastIdx : i.val = c.cursor.toNat
    · have hstored : (c.appendPulse ts d).buf[i.val] = storedPulse d := by simp [hlastIdx]
      rw [hstored, storedPulse_toNat hwf hd]
      exact (inCaptureBand_iff cfg d).1 hd
    · rw [appendPulse_buf, Vector.getElem_setIfInBounds_ne _ (by omega)]
      exact h.written i (by omega)

theorem CoreState.CaptureInv.sampleEdge (h : c.CaptureInv cfg) (hwf : cfg.wf = true) (ts : Tick) :
    (c.sampleEdge cfg ts).CaptureInv cfg := by
  rcases sampleEdge_cases cfg ts c with ⟨hc, -⟩ | ⟨-, hfin, hgo, ⟨-, hc⟩ | ⟨hrun, hd, hc⟩ | ⟨hrun, -, hc⟩⟩ <;> rw [hc]
  · exact h
  · exact h.firstEdge hfin ts
  · exact h.appendPulse hwf hrun hfin hgo ts hd
  · exact h.setError hrun hfin

theorem CoreState.CaptureInv.coreStep (h : c.CaptureInv cfg) (hwf : cfg.wf = true) (d : Decoded) :
    (coreStep cfg c d).CaptureInv cfg := by
  refine coreStep_of_both h ?_
  cases d with
  | illegal why => exact h.congr rfl
  | legal i =>
    cases i with
    | nop | read addr => exact h
    | close => exact h.congr rfl
    | reset => exact captureInv_reset cfg
    | edge ts lv => exact h.sampleEdge hwf ts
    | arm =>
      rw [coreEffect]; split
      · exact h.congr rfl
      · exact (captureInv_reset cfg).congr rfl
    | decode =>
      rw [coreEffect]; split
      · exact h.congr rfl
      · exact h.congr rfl

/-! ### The invariant of the result and fault registers -/

/-- R29: the reserved code 7 is no outcome's. -/
theorem Reading.code_ne_seven (o : Reading) : o.code ≠ 7#3 := by
  cases o <;> simp [Reading.code]

/-- R30: only the two violations report a pulse. -/
theorem Reading.viol_zero (o : Reading) (h4 : o.code ≠ 4#3) (h5 : o.code ≠ 5#3) : o.index = 0#7 ∧ o.measured = 0#8 := by
  cases o with
  | structViolation i m => exact absurd rfl h4
  | decodeInvalid i m => exact absurd rfl h5
  | _ => exact ⟨rfl, rfl⟩

/-- R30: only OK reports a frame. -/
theorem Reading.bytes_zero (o : Reading) (h1 : o.code ≠ 1#3) : o.bytes = Vector.replicate 5 0#8 := by
  cases o with
  | ok b => exact absurd rfl h1
  | _ => rfl

theorem evaluate_of_capture_eq (cfg : Config) (hc : c'.capture = c.capture) : evaluate cfg c' = evaluate cfg c := by
  obtain ⟨hbuf, -, -, hrunning, hfinished, herror⟩ := capture_eq_iff.1 hc
  exact evaluate_congr hbuf hrunning hfinished herror

/-- Writing an outcome changes nothing exactly where the result registers hold it already. -/
theorem writeResult_eq_self_iff (o : Reading) (c : CoreState) :
    c.writeResult o = c ↔ c.resultRegs = (o.code, o.index, o.measured, o.bytes) := by
  cases c
  simp [CoreState.writeResult, CoreState.resultRegs, eq_comm]

theorem resultInv_reset (cfg : Config) : CoreState.reset.ResultInv cfg where
  code_legal := by decide
  viol_zero _ _ := ⟨rfl, rfl⟩
  frame_zero _ k := by simp
  outcome h := absurd rfl h
  cause_iff := by decide

/-- The results stay good where they stay as they are, an outcome's capture with them, and the fault registers agree. -/
theorem CoreState.ResultInv.of_same_results (h : c.ResultInv cfg) (hr : c'.resultRegs = c.resultRegs)
    (hout : c.resCode ≠ 0#3 → c'.attached = false ∧ c'.capture = c.capture)
    (hcause : c'.faulted = false ↔ c'.faultCause = 0#2) : c'.ResultInv cfg := by
  obtain ⟨hcode, hindex, hmeas, hframe⟩ := resultRegs_eq_iff.1 hr
  constructor
  case code_legal => rw [hcode]; exact h.code_legal
  case viol_zero => rw [hcode, hindex, hmeas]; exact h.viol_zero
  case frame_zero => simp only [hcode, hframe]; exact h.frame_zero
  case outcome =>
    rw [hcode]
    intro hne
    obtain ⟨hattached, hcapture⟩ := hout hne
    obtain ⟨-, hself⟩ := h.outcome hne
    refine ⟨hattached, ?_⟩
    rw [evaluate_of_capture_eq cfg hcapture, writeResult_eq_self_iff, hr]
    exact (writeResult_eq_self_iff _ c).1 hself
  case cause_iff => exact hcause

theorem CoreState.ResultInv.detached_of_code (h : c.ResultInv cfg) (hne : c.resCode ≠ 0#3) : c.attached = false :=
  (h.outcome hne).1

theorem FaultCause.code_ne_zero (f : FaultCause) : f.code ≠ 0#2 := by
  cases f <;> decide

theorem CoreState.ResultInv.raiseFault (h : c.ResultInv cfg) (f : FaultCause) : (c.raiseFault f).ResultInv cfg :=
  h.of_same_results rfl (fun hne => ⟨h.detached_of_code hne, rfl⟩) (by simp [f.code_ne_zero])

theorem CoreState.ResultInv.arm (h : c.ResultInv cfg) : c.arm.ResultInv cfg :=
  (resultInv_reset cfg).of_same_results rfl (fun hne => absurd rfl hne) h.cause_iff

theorem CoreState.ResultInv.sampleEdge (h : c.ResultInv cfg) (ts : Tick) : (c.sampleEdge cfg ts).ResultInv cfg := by
  obtain ⟨hattached, hresults, hfault⟩ := sampleEdge_frame cfg ts c
  obtain ⟨hfaulted, hcause⟩ := faultRegs_eq_iff.1 hfault
  refine h.of_same_results hresults (fun hne => ?_) (by rw [hfaulted, hcause]; exact h.cause_iff)
  have hdetached := h.detached_of_code hne
  exact ⟨hattached.trans hdetached, by rw [sampleEdge_of_ignored cfg ts (.inl hdetached)]⟩

/-- R122, R123: DECODE writes the outcome of the capture it leaves standing. -/
theorem CoreState.ResultInv.writeResult (h : c.ResultInv cfg) (ha : c.attached = false) :
    (c.writeResult (evaluate cfg c)).ResultInv cfg where
  code_legal := Reading.code_ne_seven _
  viol_zero := Reading.viol_zero _
  frame_zero h1 k := by simp [Reading.bytes_zero _ h1]
  outcome _ := ⟨ha, by rw [evaluate_of_capture_eq (c := c) cfg rfl]; rfl⟩
  cause_iff := h.cause_iff

theorem CoreState.ResultInv.coreStep (h : c.ResultInv cfg) (d : Decoded) : (coreStep cfg c d).ResultInv cfg := by
  refine coreStep_of_both h ?_
  cases d with
  | illegal why => exact h.raiseFault .illegalOp
  | legal i =>
    cases i with
    | nop | read addr => exact h
    | close => exact h.of_same_results rfl (fun _ => ⟨rfl, rfl⟩) h.cause_iff
    | reset => exact resultInv_reset cfg
    | edge ts lv => exact h.sampleEdge ts
    | arm =>
      rw [coreEffect]; split
      · exact h.raiseFault .armWhileAttached
      · exact h.arm
    | decode =>
      rw [coreEffect]; split
      case isTrue => exact h.raiseFault .decodeWhileAttached
      case isFalse ha => exact h.writeResult (by simpa using ha)

/-! ### The step -/

theorem State.Inv.perform {s t : State} {w : TWord} (h : s.Inv) (hwf : s.cfg.wf = true) (ht : perform w s = .next t) :
    t.Inv := by
  rw [perform_next ht]
  exact ⟨h.capture.coreStep hwf _, h.result.coreStep _⟩

/-- Settles O13: every transaction's effect keeps both invariants, and a delivery touches neither the core nor the
configuration. -/
theorem everyStepKeepsTheInvariant : Obligations.EveryStepKeepsTheInvariant := by
  intro s t h hstep
  obtain ⟨hwf, ⟨-, rfl⟩ | ⟨w, s', hnext, ht⟩⟩ := step_cases hstep
  · exact h
  · obtain ⟨hcore, hcfg, -⟩ := nextWord_frame hnext
    have h' : s'.Inv := ⟨by rw [hcore, hcfg]; exact h.capture, by rw [hcore, hcfg]; exact h.result⟩
    exact h'.perform (by rw [hcfg]; exact hwf) ht

/-! ### The cursor (R21) -/

/-- Under EDGE the cursor stands, or goes up by one for a duration of the capture band. -/
theorem sampleEdge_cursor (h : c.CaptureInv cfg) (ts : Tick) :
    (c.sampleEdge cfg ts).cursor = c.cursor ∨
    ((c.sampleEdge cfg ts).cursor.toNat = c.cursor.toNat + 1 ∧ c.cursor.toNat < 83 ∧ c.running = true ∧
      cfg.capLo < (ts - c.ref).toNat ∧ (ts - c.ref).toNat < cfg.capHi) := by
  rcases sampleEdge_cases cfg ts c with ⟨hc, -⟩ | ⟨-, hfin, -, ⟨-, hc⟩ | ⟨hrun, hd, hc⟩ | ⟨-, -, hc⟩⟩ <;> rw [hc]
  · exact .inl rfl
  · exact .inl rfl
  · have hlt := h.cursor_lt hfin
    exact .inr ⟨cursor_succ_toNat hlt, hlt, hrun, (inCaptureBand_iff cfg _).1 hd⟩
  · exact .inl rfl

/-- Everything a step can do to the cursor. -/
theorem coreStep_cursor (h : c.CaptureInv cfg) (d : Decoded) :
    (coreStep cfg c d).cursor = c.cursor ∨
    ((coreStep cfg c d).cursor.toNat = c.cursor.toNat + 1 ∧ c.cursor.toNat < 83 ∧
      ∃ ts lv, d = .legal (.edge ts lv) ∧ c.running = true ∧
        cfg.capLo < (ts - c.ref).toNat ∧ (ts - c.ref).toNat < cfg.capHi) ∨
    ((coreStep cfg c d).cursor = 0#7 ∧ (d = .legal .arm ∨ d = .legal .reset)) := by
  by_cases harm : d = .legal .arm
  · subst harm
    rcases coreStep_arm_cases cfg c with hcapture | ⟨-, hzero⟩
    · exact .inl (capture_eq_iff.1 hcapture).2.1
    · exact .inr (.inr ⟨hzero, .inl rfl⟩)
  by_cases hreset : d = .legal .reset
  · subst hreset
    exact .inr (.inr ⟨by rw [coreStep_reset]; rfl, .inr rfl⟩)
  by_cases hedge : ∃ ts lv, d = .legal (.edge ts lv)
  · obtain ⟨ts, lv, rfl⟩ := hedge
    cases hf : c.faulted with
    | true => exact .inl (by rw [coreStep_of_faulted cfg hf hreset])
    | false =>
      rw [coreStep_of_unfaulted cfg _ hf, coreEffect]
      exact (sampleEdge_cursor h ts).imp_right fun ⟨hnext, hlt, hwhy⟩ => .inl ⟨hnext, hlt, ts, lv, rfl, hwhy⟩
  · have hcapture := coreStep_capture cfg c (fun ts lv he => hedge ⟨ts, lv, he⟩) harm hreset
    exact .inl (capture_eq_iff.1 hcapture).2.1

/-- Settles O11, from the three things a step can do to the cursor. -/
theorem cursorChangesOnlyByOneOrToZero : Obligations.CursorChangesOnlyByOneOrToZero := by
  intro w s t h ht
  rw [perform_next ht]
  have hle := h.capture.cursor_le
  rcases coreStep_cursor h.capture (decode w) with hsame | ⟨hnext, hlt, hwhy⟩ | ⟨hzero, hwhy⟩
  · exact ⟨by simp only [hsame]; exact hle, .inl hsame⟩
  · exact ⟨by simp only [hnext]; omega, .inr (.inl ⟨hnext, hwhy⟩)⟩
  · exact ⟨by simp only [hzero]; decide, .inr (.inr ⟨hzero, hwhy⟩)⟩

/-! ### A detached capture has seen a CLOSE (R25) -/

/-- A step that ends detached beside a capture with a duration keeps that capture, and found it detached unless it was CLOSE on an
unfaulted attached core. -/
theorem detached_capture_cases {d : Decoded} (hcursor : 0 < (coreStep cfg c d).cursor.toNat)
    (hdetached : (coreStep cfg c d).attached = false) :
    (coreStep cfg c d).capture = c.capture ∧
      (c.attached = false ∨ (d = .legal .close ∧ c.attached = true ∧ c.faulted = false)) := by
  have hreset : d ≠ .legal .reset := by rintro rfl; simp [coreStep_reset] at hcursor
  cases hf : c.faulted with
  | true =>
    rw [coreStep_of_faulted cfg hf hreset] at hdetached ⊢
    exact ⟨rfl, .inl hdetached⟩
  | false =>
    have harm : d ≠ .legal .arm := by
      rintro rfl
      cases ha : c.attached <;> simp [coreStep_of_unfaulted cfg _ hf, coreEffect, ha] at hdetached
    by_cases hclose : d = .legal .close
    · subst hclose
      exact ⟨coreStep_capture cfg c (by simp) harm hreset, by cases ha : c.attached <;> simp⟩
    · rw [coreStep_attached cfg c harm hclose hreset] at hdetached
      refine ⟨?_, .inl hdetached⟩
      by_cases hedge : ∃ ts lv, d = .legal (.edge ts lv)
      · obtain ⟨ts, lv, rfl⟩ := hedge
        rw [coreStep_edge_of_ignored cfg ts lv (.inl hdetached)]
      · exact coreStep_capture cfg c (fun ts lv he => hedge ⟨ts, lv, he⟩) harm hreset

/-- A run's last word is performed on the state the words before it lead to. -/
theorem performs_concat {ws : List TWord} {w : TWord} {s t : State} (h : performs (ws ++ [w]) s = .next t) :
    ∃ u, performs ws s = .next u ∧ perform w u = .next t := by
  obtain ⟨u, hu, -⟩ := performs_total ws s
  rw [performs_append_andThen, hu, andThen_next, performs_cons, performs_nil, ← perform_eq] at h
  exact ⟨u, hu, h⟩

/-- Settles O14, by induction on the run from its last word: the capture at the end was found detached already, and stood at the
end of the shorter run, or the last word is the CLOSE. -/
theorem detachedCaptureHasSeenClose : Obligations.DetachedCaptureHasSeenClose := by
  intro cfg ws
  induction ws using List.reverseRecOn with
  | nil =>
    intro t ht hcursor _
    cases ht
    exact absurd hcursor (by simp)
  | append_singleton ws w ih =>
    intro t ht hcursor hdetached
    obtain ⟨u, hu, hw⟩ := performs_concat ht
    rw [perform_next hw] at hcursor hdetached ⊢
    obtain ⟨hcapture, hbefore⟩ := detached_capture_cases hcursor hdetached
    obtain ⟨hbuf, hcur, -⟩ := capture_eq_iff.1 hcapture
    rcases hbefore with hd | ⟨hclose, ha, hf⟩
    · simp only [hcur] at hcursor
      obtain ⟨pre, post, v, rfl, hv, hva, hvf, hvbuf, hvcur⟩ := ih u hu hcursor hd
      exact ⟨pre, post ++ [w], v, by simp, hv, hva, hvf, hvbuf.trans hbuf.symm, hvcur.trans hcur.symm⟩
    · exact ⟨ws, [], u, by rw [encode_of_decode hclose], hu, ha, hf, hbuf.symm, hcur.symm⟩

end Sys2Proof.Machine
end

section
/-! PROOFS. What READ sees in each register, and the reset values (spec/10_state.md R27, R31 to R39). -/

namespace Sys2Proof.Machine

/-- The bits of STATUS, reserved ones too (R31). -/
theorem statusByte_getLsbD (c : CoreState) (k : Nat) : c.statusByte.getLsbD k =
    if k = 0 then c.running else if k = 1 then c.finished else if k = 2 then c.error else if k = 3 then c.attached
    else if k = 4 then c.faulted else false := by
  have e : c.statusByte.getLsbD k = BitVec.getLsbD (w := 3 + 1 + 1 + 1 + 1 + 1) (0#3 ++ BitVec.ofBool c.faulted ++
      BitVec.ofBool c.attached ++ BitVec.ofBool c.error ++ BitVec.ofBool c.finished ++ BitVec.ofBool c.running) k := rfl
  rw [e]
  simp only [BitVec.getLsbD_append, BitVec.getLsbD_ofBool, BitVec.getLsbD_zero]
  match k with
  | 0 | 1 | 2 | 3 | 4 => rfl
  | k + 5 => simp

/-- A field with zero bits put before it reads as the field's own number (R37). -/
theorem zero_append_toNat {n m : Nat} (x : BitVec m) : (0#n ++ x).toNat = x.toNat := by
  simp

/-- Every register reads 0x00 in the reset state (R39). -/
theorem memRead_of_reset (addr : Byte) : memRead CoreState.reset addr = 0x00#8 := by
  unfold memRead
  split
  · simp
  · split_ifs <;> simp [CoreState.statusByte, CoreState.cursorByte, CoreState.faultCauseByte, CoreState.resCodeByte,
      CoreState.violIndexByte]

/-- Settles O5, by the values RESET writes. -/
theorem powerOnEqualsReset : Obligations.PowerOnEqualsReset := by
  intro s
  refine ⟨_, exec_eq .reset s, ?_⟩
  simp only [coreStep_reset]
  exact ⟨rfl, fun i => by simp, rfl, rfl, rfl, rfl, rfl, rfl, rfl, rfl, rfl, fun k => by simp, rfl, rfl, rfl⟩

/-- Settles O6, from the bits of STATUS. -/
theorem statusRegisterBits : Obligations.StatusRegisterBits := by
  refine ⟨fun c => ?_, memRead_of_reset _⟩
  simp only [memRead_status, statusByte_getLsbD]
  refine ⟨rfl, rfl, rfl, rfl, rfl, fun k hk => ?_⟩
  simp [show k ≠ 0 ∧ k ≠ 1 ∧ k ≠ 2 ∧ k ≠ 3 ∧ k ≠ 4 by omega]

/-- Settles O7, register by register. -/
theorem registerValuesAndResetValues : Obligations.RegisterValuesAndResetValues := by
  refine ⟨fun c => ⟨?_, ?_, ?_, ?_, rfl, memRead_frame c, fun i => ?_⟩, memRead_of_reset⟩
  · rw [memRead_cursor, CoreState.cursorByte, zero_append_toNat]
  · rw [memRead_faultCause, CoreState.faultCauseByte, zero_append_toNat]
  · rw [memRead_resCode, CoreState.resCodeByte, zero_append_toNat]
  · rw [memRead_violIndex, CoreState.violIndexByte, zero_append_toNat]
  · have e : (BitVec.ofNat 8 i.val).toNat = i.val := by rw [BitVec.toNat_ofNat]; omega
    rw [memRead_pulse c (by omega)]
    simp only [e]

/-- Settles O9: READ sees none of the fields that the update of ref changes. -/
theorem referenceIsNotReadable : Obligations.ReferenceIsNotReadable := fun _ _ _ =>
  memRead_congr (fun _ => rfl) (fun _ => rfl) (fun _ => rfl) rfl rfl rfl rfl rfl

end Sys2Proof.Machine
end

section
/-! PROOFS. The register space and the closed capture (spec/20_memory.md R42, R53): what a reserved address reads, and what a
detached core keeps until the next ARM or RESET. -/

namespace Sys2Proof.Machine

/-- CLOSE attaches nothing, not even where the fault gate ignores it (R77, R71). -/
theorem coreStep_close_detached (cfg : Config) {c : CoreState} (ha : c.attached = false) :
    (coreStep cfg c (.legal .close)).attached = false :=
  coreStep_of_both (P := fun c' => c'.attached = false) ha rfl

/-- Only ARM attaches the sampler, so without it a detached core stays detached (R28, R76). -/
theorem coreStep_stays_detached (cfg : Config) {c : CoreState} {d : Decoded} (ha : c.attached = false)
    (harm : d ≠ .legal .arm) : (coreStep cfg c d).attached = false := by
  by_cases hclose : d = .legal .close
  · rw [hclose]; exact coreStep_close_detached cfg ha
  by_cases hreset : d = .legal .reset
  · rw [hreset, coreStep_reset]; rfl
  · rw [coreStep_attached cfg c harm hclose hreset, ha]

/-- A detached core ignores EDGE, so there only ARM and RESET write the capture (R53, R86). -/
theorem coreStep_capture_of_detached (cfg : Config) {c : CoreState} {d : Decoded} (ha : c.attached = false)
    (harm : d ≠ .legal .arm) (hreset : d ≠ .legal .reset) : (coreStep cfg c d).capture = c.capture := by
  by_cases hedge : ∃ ts lv, d = .legal (.edge ts lv)
  · obtain ⟨ts, lv, rfl⟩ := hedge
    rw [coreStep_edge_of_ignored cfg ts lv (.inl ha)]
  · exact coreStep_capture cfg c (fun ts lv he => hedge ⟨ts, lv, he⟩) harm hreset

/-- From a detached core, a run without ARM and RESET ends detached, with the capture and the configuration it began with. -/
theorem performs_of_closed {ws : List TWord} {s t : State} (ha : s.core.attached = false)
    (hws : ∀ w ∈ ws, decode w ≠ .legal .arm ∧ decode w ≠ .legal .reset) (h : performs ws s = .next t) :
    t.core.attached = false ∧ t.core.capture = s.core.capture ∧ t.cfg = s.cfg := by
  refine performs_induct (P := fun u => u.core.attached = false ∧ u.core.capture = s.core.capture ∧ u.cfg = s.cfg)
    (fun w hw u ⟨hu, hcapture, hcfg⟩ => ?_) ⟨ha, rfl, rfl⟩ h
  obtain ⟨harm, hreset⟩ := hws w hw
  exact ⟨coreStep_stays_detached u.cfg hu harm,
    (coreStep_capture_of_detached u.cfg hu harm hreset).trans hcapture, hcfg⟩

/-- Settles O49: the run keeps the capture, and the outcome is evaluated from the capture alone. -/
theorem closedCaptureIsStable : Obligations.ClosedCaptureIsStable := by
  intro s t ws ha hws h
  obtain ⟨hdetached, hcapture, hcfg⟩ := performs_of_closed ha hws h
  have houtcome : evaluate t.cfg t.core = evaluate s.cfg s.core := by
    rw [hcfg, evaluate_of_capture_eq s.cfg hcapture]
  obtain ⟨hbuf, hcursor, href, hrunning, hfinished, herror⟩ := capture_eq_iff.1 hcapture
  exact ⟨hdetached, hbuf, hcursor, hrunning, hfinished, herror, href, houtcome⟩

/-- Settles O8: READ's output is what the register space holds, and a reserved address of it holds 0x00. -/
theorem reservedAddressReadsZero : Obligations.ReservedAddressReadsZero := by
  intro s addr haddr
  rw [exec, execRead, memRead_reserved s.core haddr]

end Sys2Proof.Machine
end

section
/-! PROOFS. The encoding (spec/30_encoding.md R61 to R65): the two directions of the round trip, the rows of the opcode table, and
what the decoder answers for each opcode. -/

namespace Sys2Proof

/-! ### The round trip (R61 to R64) -/

/-- Settles O15: the fields of each format are what was put into it. -/
theorem decodeOfEncodeIsTheInstruction : Obligations.DecodeOfEncodeIsTheInstruction :=
  fun i _ => decode_encode i

/-- Settles O16: a legal word is put together again from its fields, the must-be-zero ones among them. -/
theorem legalWordIsTheEncoding : Obligations.LegalWordIsTheEncoding :=
  fun _ _ => encode_of_decode

theorem decode_eq_legal_iff {w : TWord} {i : Instr} : decode w = .legal i ↔ w = encode i :=
  ⟨fun h => (encode_of_decode h).symm, fun h => h ▸ decode_encode i⟩

/-! ### The rows of the opcode table (R63) -/

/-- A mask that keeps all bits from bit k up clears the k bits below. -/
theorem and_highMask_toNat (w : TWord) (k : Nat) : (w &&& BitVec.allOnes 40 <<< k).toNat = w.toNat / 2 ^ k * 2 ^ k := by
  have hlt : w.toNat / 2 ^ k * 2 ^ k < 2 ^ 40 := (Nat.div_mul_le_self _ _).trans_lt w.isLt
  rw [← BitVec.shiftLeft_ushiftRight, BitVec.toNat_shiftLeft,
    BitVec.toNat_ushiftRight, Nat.shiftRight_eq_div_pow, Nat.shiftLeft_eq,
    Nat.mod_eq_of_lt hlt]

/-- Only EDGE and READ have operands: any other transaction is the only one of its mnemonic. -/
theorem Instr.mnemonic_eq_iff {i : Instr} (hedge : ∀ ts lv, i ≠ .edge ts lv) (hread : ∀ addr, i ≠ .read addr) (j : Instr) :
    j.mnemonic = i.mnemonic ↔ j = i := by
  cases i with
  | edge ts lv => exact absurd rfl (hedge ts lv)
  | read addr => exact absurd rfl (hread addr)
  | _ => cases j <;> simp [Instr.mnemonic]

theorem Instr.mnemonic_eq_edge (i : Instr) : i.mnemonic = "EDGE" ↔ ∃ ts lv, i = .edge ts lv := by
  cases i <;> simp [Instr.mnemonic]

theorem Instr.mnemonic_eq_read (i : Instr) : i.mnemonic = "READ" ↔ ∃ addr, i = .read addr := by
  cases i <;> simp [Instr.mnemonic]

/-- A row whose mask is all ones is selected by the one word of its transaction. -/
theorem selectedBy_fullMask (i : Instr) (hedge : ∀ ts lv, i ≠ .edge ts lv) (hread : ∀ addr, i ≠ .read addr) (w : TWord) :
    OpcodeRow.selectedBy ⟨i.mnemonic, encode i, 0xFFFFFFFFFF#40⟩ w = true ↔ ∃ j, w = encode j ∧ j.mnemonic = i.mnemonic := by
  have hmask : w &&& 0xFFFFFFFFFF#40 = w := BitVec.and_allOnes
  simp [OpcodeRow.selectedBy, hmask, Instr.mnemonic_eq_iff hedge hread]

theorem selectedBy_edge (w : TWord) : OpcodeRow.selectedBy ⟨"EDGE", 0x4000000000#40, 0xFE00000000#40⟩ w = true ↔
    ∃ i, w = encode i ∧ i.mnemonic = "EDGE" := by
  have hmask : (w &&& 0xFE00000000#40).toNat = w.toNat / 2 ^ 33 * 2 ^ 33 := and_highMask_toNat w 33
  simp only [OpcodeRow.selectedBy, beq_iff_eq, ← BitVec.toNat_inj, hmask, Instr.mnemonic_eq_edge]
  constructor
  · intro h
    change _ = 0x4000000000 at h
    exact ⟨_, by rw [encode, formatE_toNat, tsField_toNat, lvField_toNat]; omega, tsField w, lvField w, rfl⟩
  · rintro ⟨_, h, ts, lv, rfl⟩
    rw [encode, formatE_toNat] at h
    change _ = 0x4000000000
    omega

theorem selectedBy_read (w : TWord) : OpcodeRow.selectedBy ⟨"READ", 0x5000000000#40, 0xFFFFFFFF00#40⟩ w = true ↔
    ∃ i, w = encode i ∧ i.mnemonic = "READ" := by
  have hmask : (w &&& 0xFFFFFFFF00#40).toNat = w.toNat / 2 ^ 8 * 2 ^ 8 := and_highMask_toNat w 8
  simp only [OpcodeRow.selectedBy, beq_iff_eq, ← BitVec.toNat_inj, hmask, Instr.mnemonic_eq_read]
  constructor
  · intro h
    change _ = 0x5000000000 at h
    exact ⟨_, by rw [encode, formatR_toNat, addrField_toNat]; omega, addrField w, rfl⟩
  · rintro ⟨_, h, addr, rfl⟩
    rw [encode, formatR_toNat] at h
    change _ = 0x5000000000
    omega

/-- A word selects a row exactly when it is the word of a transaction with that row's mnemonic. -/
theorem selectedBy_iff {r : OpcodeRow} (hr : r ∈ opcodeTable) (w : TWord) :
    r.selectedBy w = true ↔ ∃ i, w = encode i ∧ i.mnemonic = r.mnemonic := by
  simp only [opcodeTable, List.mem_cons, List.not_mem_nil, or_false] at hr
  rcases hr with rfl | rfl | rfl | rfl | rfl | rfl | rfl
  · exact selectedBy_fullMask .nop (by simp) (by simp) w
  · exact selectedBy_fullMask .arm (by simp) (by simp) w
  · exact selectedBy_fullMask .close (by simp) (by simp) w
  · exact selectedBy_fullMask .decode (by simp) (by simp) w
  · exact selectedBy_edge w
  · exact selectedBy_read w
  · exact selectedBy_fullMask .reset (by simp) (by simp) w

/-- No two rows of the table share a mnemonic. -/
theorem opcodeTable_mnemonic_inj :
    ∀ r₁ ∈ opcodeTable, ∀ r₂ ∈ opcodeTable, r₁.mnemonic = r₂.mnemonic → r₁ = r₂ := by decide

/-- Settles O17: a row's words are those of its mnemonic's transactions, and a word has one transaction. -/
theorem decoderFollowsTheOpcodeTable : Obligations.DecoderFollowsTheOpcodeTable := by
  refine ⟨fun w r₁ r₂ hr₁ hr₂ h₁ h₂ => ?_, fun w r hr => ?_⟩
  · obtain ⟨i, hi, hname₁⟩ := (selectedBy_iff hr₁ w).1 h₁
    obtain ⟨j, hj, hname₂⟩ := (selectedBy_iff hr₂ w).1 h₂
    have hij : Decoded.legal i = .legal j := (decode_eq_legal_iff.2 hi).symm.trans (decode_eq_legal_iff.2 hj)
    cases hij
    exact opcodeTable_mnemonic_inj r₁ hr₁ r₂ hr₂ (hname₁.symm.trans hname₂)
  · simp only [selectedBy_iff hr, decode_eq_legal_iff]

/-! ### What the decoder answers for each opcode (R64, R65) -/

theorem decode_of_edgeOp {w : TWord} (hop : opField w = 0x4#4) :
    decode w = if zeroFieldE w = 0#3 then .legal (.edge (tsField w) (lvField w)) else .illegal .nonzeroField := by
  simp [decode, hop]

theorem decode_of_readOp {w : TWord} (hop : opField w = 0x5#4) :
    decode w = if zeroFieldR w = 0#28 then .legal (.read (addrField w)) else .illegal .nonzeroField := by
  simp [decode, hop]

theorem decode_of_reservedOp {w : TWord} (hop : 0x7 ≤ (opField w).toNat) : decode w = .illegal .reservedOp := by
  have hne : ∀ op : BitVec 4, op ≤ 0x6#4 → opField w ≠ op := by
    rintro _ hle rfl
    exact absurd (BitVec.le_def.1 hle) (Nat.not_le.2 hop)
  have hgt : ¬ opField w ≤ 0x6#4 := fun hle => hne _ hle rfl
  simp [decode, hne, hgt]

/-- The transactions of format C: a defined OP but 0x4 and 0x5, legal exactly when the other 36 bits are 0. -/
theorem decode_of_formatCOp {w : TWord} (hop : (opField w).toNat ≤ 0x6) (h4 : opField w ≠ 0x4#4) (h5 : opField w ≠ 0x5#4) :
    (zeroFieldC w = 0#36 ∧ ∃ i, decode w = .legal i) ∨ (zeroFieldC w ≠ 0#36 ∧ decode w = .illegal .nonzeroField) := by
  by_cases hz : zeroFieldC w = 0#36
  · refine .inl ⟨hz, ?_⟩
    have hw := eq_formatC rfl hz
    have hops : opField w = 0x0#4 ∨ opField w = 0x1#4 ∨ opField w = 0x2#4 ∨ opField w = 0x3#4 ∨ opField w = 0x6#4 := by
      bv_omega
    rcases hops with h | h | h | h | h <;> rw [h] at hw
    exacts [⟨.nop, decode_eq_legal_iff.2 hw⟩, ⟨.arm, decode_eq_legal_iff.2 hw⟩, ⟨.close, decode_eq_legal_iff.2 hw⟩,
      ⟨.decode, decode_eq_legal_iff.2 hw⟩, ⟨.reset, decode_eq_legal_iff.2 hw⟩]
  · have hle : opField w ≤ 0x6#4 := BitVec.le_def.2 hop
    exact .inr ⟨hz, by simp [decode, hz, h4, h5, hle]⟩

theorem exists_illegal_iff (w : TWord) : (∃ why, decode w = .illegal why) ↔
    0x7 ≤ (opField w).toNat ∨
    ((opField w).toNat ≤ 0x6 ∧ opField w ≠ 0x4#4 ∧ opField w ≠ 0x5#4 ∧ zeroFieldC w ≠ 0#36) ∨
    (opField w = 0x4#4 ∧ zeroFieldE w ≠ 0#3) ∨ (opField w = 0x5#4 ∧ zeroFieldR w ≠ 0#28) := by
  by_cases h7 : 0x7 ≤ (opField w).toNat
  · simp [decode_of_reservedOp h7, h7]
  by_cases h4 : opField w = 0x4#4
  · by_cases hz : zeroFieldE w = 0#3 <;> simp [decode_of_edgeOp h4, h4, hz]
  by_cases h5 : opField w = 0x5#4
  · by_cases hz : zeroFieldR w = 0#28 <;> simp [decode_of_readOp h5, h5, hz]
  have h6 : (opField w).toNat ≤ 0x6 := by omega
  rcases decode_of_formatCOp h6 h4 h5 with ⟨hz, i, hd⟩ | ⟨hz, hd⟩ <;> simp [hd, h7, h6, h4, h5, hz]

/-- Settles O18, by the opcode's class and the two cases of the fault gate. -/
theorem illegalWordsFaultOrAreIgnored : Obligations.IllegalWordsFaultOrAreIgnored := by
  refine ⟨exists_illegal_iff, fun w why s hd hf => ?_, fun w why s hd hf => ?_⟩
  · rw [Machine.perform_of_illegal hd, Machine.execIllegal, Machine.gated_of_unfaulted _ hf]
    rfl
  · rw [Machine.perform_of_illegal hd, Machine.execIllegal, Machine.gated_of_faulted _ hf]

/-- Settles O19, by evaluating the decoder on each word. -/
theorem writtenWordsDecode : Obligations.WrittenWordsDecode := by
  unfold Obligations.WrittenWordsDecode
  decide

end Sys2Proof
end

section
/-! PROOFS. The words of a trace as a run (spec/30_encoding.md R69, R70): each EDGE in the capture band adds its duration to what
the capture holds. -/

namespace Sys2Proof.Machine

/-! ### The durations of a frame -/

/-- Among pairs laid out one after the other, the first of pair k stands at 2k and its second at 2k + 1. -/
theorem getElem?_flatMap_pair {α β : Type} (f g : α → β) (xs : List α) (k : Nat) :
    (xs.flatMap fun x => [f x, g x])[2 * k]? = xs[k]?.map f ∧
    (xs.flatMap fun x => [f x, g x])[2 * k + 1]? = xs[k]?.map g := by
  induction xs generalizing k with
  | nil => simp
  | cons x xs ih =>
    cases k with
    | zero => simp
    | succ k => simpa [Nat.mul_succ] using ih k

section frameDurations
variable (b : Frame) (h0 h1 h2 hd z o : Tick)

@[simp] theorem length_frameDurations : (frameDurations b h0 h1 h2 hd z o).length = 83 := by
  simp [frameDurations, List.length_flatMap]

/-- Payload bit j's header stands at 3 + 2j and its data pulse at 4 + 2j (R70). -/
theorem getElem?_frameDurations (j : Fin 40) :
    (frameDurations b h0 h1 h2 hd z o)[3 + 2 * j.val]? = some hd ∧
    (frameDurations b h0 h1 h2 hd z o)[4 + 2 * j.val]? = some (if payloadBit b j then o else z) := by
  obtain ⟨hheader, hdata⟩ := getElem?_flatMap_pair (fun _ => hd) (fun j => if payloadBit b j then o else z)
    (List.finRange 40) j.val
  have hj : (List.finRange 40)[j.val]? = some j := by simp
  rw [hj, Option.map_some] at hheader hdata
  have hidx : 4 + 2 * j.val - 3 = 2 * j.val + 1 := by omega
  constructor
  · rw [frameDurations, List.getElem?_append_right (by simp)]
    simpa using hheader
  · rw [frameDurations, List.getElem?_append_right (by simp; omega)]
    simpa [hidx] using hdata

theorem mem_frameDurations {d : Tick} (h : d ∈ frameDurations b h0 h1 h2 hd z o) : d ∈ [h0, h1, h2, hd, z, o] := by
  simp only [frameDurations, List.mem_append, List.mem_flatMap, List.mem_cons, List.not_mem_nil, or_false] at h ⊢
  rcases h with h | ⟨j, -, h⟩
  · tauto
  · split at h <;> tauto

end frameDurations

@[simp] theorem length_pulseWords (a : AsmState) (ds : List Tick) : (pulseWords a ds).2.length = ds.length := by
  induction ds generalizing a with
  | nil => rfl
  | cons d ds ih => simp [pulseWords, ih]

/-! ### What a capture holds -/

/-- An attached, error-free capture that the first EDGE has started and that has stored the pulses `ps` since. -/
structure CoreState.Holds (c : CoreState) (ps : List Byte) : Prop where
  faulted : c.faulted = false
  attached : c.attached = true
  error : c.error = false
  cursor : c.cursor.toNat = ps.length
  finished : c.finished = decide (ps.length = 83)
  running : c.running = decide (ps.length ≠ 83)
  stored : ∀ (i : Fin 83) (v : Byte), ps[i.val]? = some v → c.buf[i.val] = v

/-- What EDGE does to an attached core that has neither faulted nor finished nor seen an error (R89, R91, R93). -/
theorem coreStep_edge_of_live (cfg : Config) (ts : Tick) (lv : BitVec 1) {c : CoreState} (hf : c.faulted = false)
    (ha : c.attached = true) (hfin : c.finished = false) (he : c.error = false) :
    coreStep cfg c (.legal (.edge ts lv)) =
      if c.running = false then { c with ref := ts, running := true }
      else if inCaptureBand cfg (duration ts c.ref) then c.appendPulse ts (duration ts c.ref)
      else { c with error := true } := by
  simp [coreStep_of_unfaulted cfg _ hf, coreEffect, CoreState.sampleEdge, ha, hfin, he]

theorem phase_eq_waitFirst_iff (c : CoreState) : c.phase = .waitFirst ↔
    c.faulted = false ∧ c.attached = true ∧ c.finished = false ∧ c.running = false := by
  unfold CoreState.phase
  split_ifs <;> simp_all

/-- R89: the first EDGE starts a capture that holds nothing yet. -/
theorem holds_nil_of_waitFirst {cfg : Config} {c : CoreState} (hinv : c.CaptureInv cfg) (hc : c.phase = .waitFirst)
    (ts : Tick) (lv : BitVec 1) :
    (coreStep cfg c (.legal (.edge ts lv))).Holds [] ∧ (coreStep cfg c (.legal (.edge ts lv))).ref = ts := by
  obtain ⟨hf, ha, hfin, hrun⟩ := (phase_eq_waitFirst_iff c).1 hc
  obtain ⟨hcursor, herror, -⟩ := hinv.idle_clear hrun hfin
  rw [coreStep_edge_of_live cfg ts lv hf ha hfin herror, if_pos hrun]
  exact ⟨⟨hf, ha, herror, by simp [hcursor], hfin, rfl, by simp⟩, rfl⟩

/-- R91, R92: an EDGE in the capture band adds its duration, until the buffer is full. -/
theorem CoreState.Holds.append {cfg : Config} {c : CoreState} {ps : List Byte} (h : c.Holds ps) (hlt : ps.length < 83)
    {ts : Tick} (lv : BitVec 1) (hd : inCaptureBand cfg (duration ts c.ref) = true) :
    (coreStep cfg c (.legal (.edge ts lv))).Holds (ps ++ [storedPulse (duration ts c.ref)]) ∧
      (coreStep cfg c (.legal (.edge ts lv))).ref = ts := by
  have hfin : c.finished = false := by simp [h.finished, hlt.ne]
  have hrun : c.running = true := by simp [h.running, hlt.ne]
  have hcur : c.cursor.toNat < 83 := h.cursor ▸ hlt
  have hlast := cursor_succ_eq_cap_iff hcur
  rw [coreStep_edge_of_live cfg ts lv h.faulted h.attached hfin h.error, if_neg (by simp [hrun]), if_pos hd]
  refine ⟨⟨h.faulted, h.attached, h.error, ?_, ?_, ?_, fun i v hv => ?_⟩, rfl⟩
  · simp [cursor_succ_toNat hcur, h.cursor]
  · simp [hlast, h.cursor, hfin]
  · simp [hlast, h.cursor, hrun]
  · rw [CoreState.appendPulse_buf, h.cursor]
    by_cases hi : i.val = ps.length
    · have hv' : storedPulse (duration ts c.ref) = v := by simpa [hi] using hv
      simp [hi, hv']
    · rw [Vector.getElem_setIfInBounds_ne _ (by omega)]
      have hlen := (List.getElem?_eq_some_iff.1 hv).1
      rw [List.length_append, List.length_singleton] at hlen
      exact h.stored i v (by rwa [List.getElem?_append_left (by omega)] at hv)

/-- The EDGE words of `PULSE` lines whose durations lie in the capture band add those durations, from a reference equal to the
assembler's time (R69). -/
theorem CoreState.Holds.performs_pulseWords {a : AsmState} {ds : List Tick} {s : State} {ps : List Byte}
    (h : s.core.Holds ps) (href : s.core.ref = a.t) (hlen : ps.length + ds.length ≤ 83)
    (hband : ∀ d ∈ ds, inCaptureBand s.cfg d = true) :
    ∃ t, performs (pulseWords a ds).2 s = .next t ∧ t.core.Holds (ps ++ ds.map storedPulse) := by
  induction ds generalizing a s ps with
  | nil => exact ⟨s, rfl, by simpa using h⟩
  | cons d ds ih =>
    rw [List.length_cons] at hlen
    have hd : duration (a.t + d) s.core.ref = d := by simp [duration, href]
    have hstep := h.append (cfg := s.cfg) (ts := a.t + d) (by omega) (1 - a.l) (by rw [hd]; exact hband d List.mem_cons_self)
    rw [hd] at hstep
    obtain ⟨hholds, href'⟩ := hstep
    have hlen' : (ps ++ [storedPulse d]).length + ds.length ≤ 83 := by simp; omega
    rw [pulseWords, performs_cons, AsmState.edgeWord, decode_encode, List.map_cons, List.append_cons]
    exact ih hholds href' hlen' fun d' hd' => hband d' (List.mem_cons_of_mem _ hd')

/-- A START and then PULSE lines with durations in the capture band, on a core in WAIT_FIRST: the capture holds those durations. -/
theorem performs_start_pulseWords {s : State} (hinv : s.Inv) (hphase : s.core.phase = .waitFirst) (t0 : Tick) {ds : List Tick}
    (hlen : ds.length ≤ 83) (hband : ∀ d ∈ ds, inCaptureBand s.cfg d = true) :
    ∃ t, performs (encode (.edge t0 0) :: (pulseWords ⟨t0, 0⟩ ds).2) s = .next t ∧ t.core.Holds (ds.map storedPulse) := by
  obtain ⟨hstart, href⟩ := holds_nil_of_waitFirst (cfg := s.cfg) hinv.capture hphase t0 0
  rw [performs_cons, decode_encode]
  exact CoreState.Holds.performs_pulseWords (ps := []) hstart href (by simpa using hlen) hband

theorem CoreState.Holds.buf_eq_storedPulse {c : CoreState} {ds : List Tick} (h : c.Holds (ds.map storedPulse)) {i : Fin 83}
    {d : Tick} (hd : ds[i.val]? = some d) : c.buf[i.val] = storedPulse d :=
  h.stored i _ (by rw [List.getElem?_map, hd]; rfl)

/-- A capture that holds 83 pulses is full (R72). -/
theorem CoreState.Holds.phase_full {c : CoreState} {ps : List Byte} (h : c.Holds ps) (hlen : ps.length = 83) :
    c.phase = .full := by
  simp [CoreState.phase, h.faulted, h.attached, h.finished, hlen]

/-- START and FRAME expand to the EDGE at t0 and one EDGE for each of the frame's durations (R69). -/
theorem traceWords_start_frame (t0 : Tick) (b : Frame) : traceWords [.start t0, .frame b] =
    encode (.edge t0 0) :: (pulseWords ⟨t0, 0⟩ (frameDurations b 30 80 80 50 26 70)).2 := by
  simp [traceWords, traceWordsFrom, TraceLine.expand, AsmState.edgeWord]

/-- FRAME's durations all lie in the default capture band (R70). -/
theorem inCaptureBand_frame (b : Frame) : ∀ d ∈ frameDurations b 30 80 80 50 26 70, inCaptureBand Config.default d = true := by
  intro d hd
  have hall : ∀ d ∈ ([30, 80, 80, 50, 26, 70] : List Tick), inCaptureBand Config.default d = true := by
    simp [inCaptureBand, Config.default]
  exact hall d (mem_frameDurations _ _ _ _ _ _ _ hd)

/-- Settles O20: the 83 EDGEs of FRAME, after START's, leave a capture that holds FRAME's durations. -/
theorem frameExpansionFillsTheBuffer : Obligations.FrameExpansionFillsTheBuffer := by
  intro s t0 b hinv hcfg hphase
  obtain ⟨t, ht, hholds⟩ := performs_start_pulseWords hinv hphase t0 (length_frameDurations b 30 80 80 50 26 70).le
    (hcfg ▸ inCaptureBand_frame b)
  rw [traceWords_start_frame]
  refine ⟨by simp, t, ht, hholds.phase_full (by simp), hholds.error, hholds.buf_eq_storedPulse (i := 0) rfl,
    hholds.buf_eq_storedPulse (i := 1) rfl, hholds.buf_eq_storedPulse (i := 2) rfl, fun i hi hodd => ?_, fun j => ?_⟩
  · obtain ⟨k, hk⟩ : ∃ k : Fin 40, i.val = 3 + 2 * k.val := ⟨⟨(i.val - 3) / 2, by omega⟩, by simp only; omega⟩
    exact hholds.buf_eq_storedPulse (i := i) (hk ▸ (getElem?_frameDurations b 30 80 80 50 26 70 k).1)
  · have hdata := (getElem?_frameDurations b 30 80 80 50 26 70 j).2
    rw [hholds.buf_eq_storedPulse (i := ⟨4 + 2 * j.val, by omega⟩) hdata, ← payloadBit]
    split <;> rfl

end Sys2Proof.Machine
end

section
/-! PROOFS. The control transactions NOP, RESET, ARM, CLOSE and READ (spec/40_control.md R74 to R78): each as one equation for the
next state, and the illegal words beside its own. -/

namespace Sys2Proof

/-- A word of a format C transaction with a non-zero bit among the other 36 is illegal (R65). -/
theorem decode_of_formatCOp_nonzero {w : TWord} (hop : (opField w).toNat ≤ 0x6) (h4 : opField w ≠ 0x4#4)
    (h5 : opField w ≠ 0x5#4) (hz : zeroFieldC w ≠ 0#36) : decode w = .illegal .nonzeroField := by
  rcases decode_of_formatCOp hop h4 h5 with ⟨hzero, -⟩ | ⟨-, hd⟩
  · exact absurd hzero hz
  · exact hd

namespace Machine

variable {cfg : Config} {c : CoreState} {s : State}

/-- With no fault latched a transaction has its effect (R71). -/
theorem exec_of_unfaulted (i : Instr) (hf : s.core.faulted = false) :
    exec i s = .next { s with core := coreEffect s.cfg s.core (.legal i), out := stepOutput s.core (.legal i) } := by
  rw [exec_eq, coreStep_of_unfaulted s.cfg _ hf]

/-- What ARM does to a core that is detached (R76). -/
theorem coreEffect_arm_of_detached (cfg : Config) (ha : c.attached = false) : coreEffect cfg c (.legal .arm) = c.arm := by
  rw [coreEffect, if_neg (by simp [ha])]

/-- What ARM does to a core that is attached (R76). -/
theorem coreEffect_arm_of_attached (cfg : Config) (ha : c.attached = true) :
    coreEffect cfg c (.legal .arm) = c.raiseFault .armWhileAttached := by
  rw [coreEffect, if_pos ha]

/-- CLOSE on a detached core does nothing, faulted or not (R77). -/
theorem coreStep_close_of_detached (cfg : Config) (ha : c.attached = false) : coreStep cfg c (.legal .close) = c := by
  have heffect : coreEffect cfg c (.legal .close) = c := by rw [coreEffect, ← ha]
  exact coreStep_of_both (P := fun c' => c' = c) rfl heffect

/-- READ changes no core state, in any phase (R78). -/
theorem coreStep_read (cfg : Config) (c : CoreState) (addr : Byte) : coreStep cfg c (.legal (.read addr)) = c :=
  coreStep_of_both (P := fun c' => c' = c) rfl rfl

theorem exec_nop (s : State) : exec .nop s = .next { s with out := none } := by
  have hcore : coreStep s.cfg s.core (.legal .nop) = s.core := coreStep_of_both (P := fun c' => c' = s.core) rfl rfl
  rw [exec_eq, hcore]; rfl

theorem exec_reset (s : State) : exec .reset s = .next { s with core := CoreState.reset, out := none } := by
  rw [exec_eq, coreStep_reset]; rfl

theorem exec_read (s : State) (addr : Byte) :
    exec (.read addr) s = .next { s with out := some (memRead s.core addr) } := by
  rw [exec_eq, coreStep_read]; rfl

theorem phase_eq_sampling_iff (c : CoreState) : c.phase = .sampling ↔
    c.faulted = false ∧ c.attached = true ∧ c.finished = false ∧ c.running = true := by
  unfold CoreState.phase
  split_ifs <;> simp_all

/-! ### The obligations -/

/-- Settles O21: NOP's effect is the identity under either answer of the gate, and format C has one word with OP 0x0. -/
theorem nopDoesNothing : Obligations.NopDoesNothing := by
  refine ⟨by decide, exec_nop, fun w hop hne => ?_⟩
  have hz : zeroFieldC w ≠ 0#36 := fun hz => hne ((eq_formatC hop hz).trans (by decide))
  exact decode_of_formatCOp_nonzero (by simp [hop]) (by simp [hop]) (by simp [hop]) hz

/-- Settles O22: RESET writes the reset core whatever the state, and any other word leaves a faulted core as it is. -/
theorem resetRestoresEveryField : Obligations.ResetRestoresEveryField := by
  refine ⟨by decide, exec_reset, fun w s t hf ht hclear => ?_, fun w s hop hz hf => ?_, fun s t ht => ?_⟩
  · by_contra hreset
    rw [perform_next ht] at hclear
    simp only [coreStep_of_faulted s.cfg hf hreset, hf] at hclear
    cases hclear
  · have hd := decode_of_formatCOp_nonzero (by simp [hop]) (by simp [hop]) (by simp [hop]) hz
    exact perform_of_ignored (coreStep_of_faulted s.cfg hf (by simp [hd])) (by simp [hd])
  · rw [exec_reset] at ht
    cases ht
    exact ⟨rfl, memRead_of_reset _, memRead_of_reset _, memRead_of_reset _⟩

/-- Settles O23, from ARM's effect on a detached and on an attached core. -/
theorem armStartsACaptureOrFaults : Obligations.ArmStartsACaptureOrFaults := by
  have harm : ∀ s : State, s.core.faulted = false → s.core.attached = false →
      exec .arm s = .next { s with core := s.core.arm, out := none } := fun s hf ha => by
    rw [exec_of_unfaulted .arm hf, coreEffect_arm_of_detached s.cfg ha]; rfl
  refine ⟨by decide, harm, fun s hf ha => ?_, harm State.reset rfl rfl, fun t ht => ?_⟩
  · rw [exec_of_unfaulted .arm hf, coreEffect_arm_of_attached s.cfg ha]; rfl
  · rw [harm State.reset rfl rfl] at ht
    cases ht
    exact ⟨rfl, rfl, rfl⟩

/-- Settles O24: CLOSE's effect writes attached alone, and on a detached core not even that changes. -/
theorem closeDetachesOnly : Obligations.CloseDetachesOnly := by
  have hclose : ∀ s : State, s.core.faulted = false →
      exec .close s = .next { s with core := { s.core with attached := false }, out := none } :=
    fun s hf => exec_of_unfaulted .close hf
  refine ⟨by decide, hclose, fun s ha => ?_, fun s t hphase hfin herr hcur ht => ?_⟩
  · rw [exec_eq, coreStep_close_of_detached s.cfg ha]; rfl
  · obtain ⟨hf, -, -, hrun⟩ := (phase_eq_sampling_iff s.core).1 hphase
    rw [hclose s hf] at ht
    cases ht
    rw [memRead_status, memRead_cursor]
    simp [CoreState.statusByte, CoreState.cursorByte, hf, hfin, herr, hrun, hcur]

/-- Settles O25: READ's next state differs in the output alone, which the core determines. -/
theorem readReturnsTheByteAndChangesNothing : Obligations.ReadReturnsTheByteAndChangesNothing := by
  refine ⟨formatR_toNat, exec_read, fun s t addr ht => ?_, fun w hop hz => ?_⟩
  · rw [exec_read] at ht
    cases ht
    exact exec_read _ addr
  · rw [decode_of_readOp hop, if_neg hz]

end Machine
end Sys2Proof
end

section
/-! PROOFS. The phase machine (spec/40_control.md R72): the table's row for each transaction, EDGE's phase by phase. -/

namespace Sys2Proof.Machine

variable {cfg : Config} {c : CoreState}

/-! ### The phase of a core -/

theorem phase_of_faulted (h : c.faulted = true) : c.phase = .faulted := by
  simp [CoreState.phase, h]

@[simp] theorem CoreState.raiseFault_phase (c : CoreState) (f : FaultCause) : (c.raiseFault f).phase = .faulted :=
  phase_of_faulted rfl

theorem phase_of_detached (hf : c.faulted = false) (ha : c.attached = false) : c.phase = .detached :=
  (phase_eq_detached_iff c).2 ⟨hf, ha⟩

theorem phase_ne_detached_of_attached (ha : c.attached = true) : c.phase ≠ .detached := fun hphase => by
  obtain ⟨-, hdetached⟩ := (phase_eq_detached_iff c).1 hphase
  simp [ha] at hdetached

theorem phase_of_attached (hf : c.faulted = false) (ha : c.attached = true) :
    c.phase = if c.finished then .full else if c.running then .sampling else .waitFirst := by
  simp [CoreState.phase, hf, ha]

theorem phase_eq_faulted_iff (c : CoreState) : c.phase = .faulted ↔ c.faulted = true := by
  unfold CoreState.phase
  split_ifs <;> simp_all

theorem phase_eq_full_iff (c : CoreState) : c.phase = .full ↔
    c.faulted = false ∧ c.attached = true ∧ c.finished = true := by
  unfold CoreState.phase
  split_ifs <;> simp_all

/-- Only RESET leads out of FAULTED (R71). -/
theorem faulted_mem_successors {d : Decoded} (hd : d ≠ .legal .reset) : Phase.faulted ∈ Phase.faulted.successors d := by
  cases d with
  | illegal why => exact List.mem_singleton_self _
  | legal i =>
    cases i with
    | reset => exact absurd rfl hd
    | _ => exact List.mem_singleton_self _

/-! ### EDGE -/

/-- R89: the first EDGE of a capture. -/
theorem coreStep_edge_phase_of_waitFirst (h : c.CaptureInv cfg) (hphase : c.phase = .waitFirst) (ts : Tick) (lv : BitVec 1) :
    (coreStep cfg c (.legal (.edge ts lv))).phase = .sampling := by
  obtain ⟨hholds, -⟩ := holds_nil_of_waitFirst h hphase ts lv
  exact (phase_eq_sampling_iff _).2 ⟨hholds.faulted, hholds.attached, hholds.finished, hholds.running⟩

/-- R91 to R93: in SAMPLING an EDGE leaves phase and cursor, or stores a duration, and the 83rd one fills the buffer. -/
theorem coreStep_edge_phase_of_sampling (h : c.CaptureInv cfg) (hphase : c.phase = .sampling) (ts : Tick) (lv : BitVec 1) :
    ((coreStep cfg c (.legal (.edge ts lv))).phase = .sampling ∧
      (coreStep cfg c (.legal (.edge ts lv))).cursor = c.cursor) ∨
    ((coreStep cfg c (.legal (.edge ts lv))).phase = (if c.cursor.toNat = 82 then .full else .sampling) ∧
      (coreStep cfg c (.legal (.edge ts lv))).cursor.toNat = c.cursor.toNat + 1) := by
  obtain ⟨hf, ha, hfin, hrun⟩ := (phase_eq_sampling_iff c).1 hphase
  rw [coreStep_of_unfaulted cfg _ hf, coreEffect]
  rcases sampleEdge_cases cfg ts c with ⟨hc, -⟩ | ⟨-, -, -, ⟨hidle, -⟩ | ⟨-, -, hc⟩ | ⟨-, -, hc⟩⟩
  · rw [hc]; exact .inl ⟨hphase, rfl⟩
  · simp [hrun] at hidle
  · have hlt := h.cursor_lt hfin
    rw [hc, phase_of_attached (c := c.appendPulse ts (duration ts c.ref)) hf ha]
    refine .inr ⟨?_, cursor_succ_toNat hlt⟩
    simp only [CoreState.appendPulse_finished, CoreState.appendPulse_running, cursor_succ_eq_cap_iff hlt, hfin, hrun]
    by_cases hlast : c.cursor.toNat = 82 <;> simp [hlast]
  · rw [hc]
    exact .inl ⟨(phase_eq_sampling_iff _).2 ⟨hf, ha, hfin, hrun⟩, rfl⟩

/-- An EDGE in SAMPLING leads to FULL exactly when it stores the 83rd duration (R92). -/
theorem coreStep_edge_full_iff (h : c.CaptureInv cfg) (hphase : c.phase = .sampling) (ts : Tick) (lv : BitVec 1) :
    (coreStep cfg c (.legal (.edge ts lv))).phase = .full ↔
      c.cursor.toNat = 82 ∧ (coreStep cfg c (.legal (.edge ts lv))).cursor.toNat = 83 := by
  rcases coreStep_edge_phase_of_sampling h hphase ts lv with ⟨hp, hcur⟩ | ⟨hp, hcur⟩
  · simp only [hp, hcur, reduceCtorEq, false_iff]
    omega
  · by_cases hlast : c.cursor.toNat = 82 <;> simp [hp, hcur, hlast]

/-- The row of EDGE, phase by phase. -/
theorem coreStep_edge_phase_mem (h : c.CaptureInv cfg) (ts : Tick) (lv : BitVec 1) :
    (coreStep cfg c (.legal (.edge ts lv))).phase ∈ c.phase.successors (.legal (.edge ts lv)) := by
  cases hphase : c.phase with
  | detached =>
    obtain ⟨-, ha⟩ := (phase_eq_detached_iff c).1 hphase
    rw [coreStep_edge_of_ignored cfg ts lv (.inl ha), hphase]
    exact List.mem_singleton_self _
  | waitFirst =>
    rw [coreStep_edge_phase_of_waitFirst h hphase ts lv]
    exact List.mem_singleton_self _
  | sampling =>
    rcases coreStep_edge_phase_of_sampling h hphase ts lv with ⟨hp, -⟩ | ⟨hp, -⟩ <;> rw [hp]
    · exact List.mem_cons_self
    · split <;> simp [Phase.successors]
  | full =>
    obtain ⟨-, -, hfin⟩ := (phase_eq_full_iff c).1 hphase
    rw [coreStep_edge_of_ignored cfg ts lv (.inr (.inl hfin)), hphase]
    exact List.mem_singleton_self _
  | faulted =>
    rw [coreStep_of_faulted cfg ((phase_eq_faulted_iff c).1 hphase) (by simp), hphase]
    exact List.mem_singleton_self _

/-! ### The table -/

/-- The rows of the transactions other than EDGE, on a core that has not faulted. -/
theorem coreEffect_phase_mem (cfg : Config) {d : Decoded} (hf : c.faulted = false) (hedge : ∀ ts lv, d ≠ .legal (.edge ts lv)) :
    (coreEffect cfg c d).phase ∈ c.phase.successors d := by
  cases d with
  | illegal why => exact List.mem_singleton.2 (CoreState.raiseFault_phase c .illegalOp)
  | legal i =>
    cases i with
    | nop | read addr => exact List.mem_singleton_self _
    | reset => exact List.mem_singleton.2 rfl
    | edge ts lv => exact absurd rfl (hedge ts lv)
    | close =>
      have hne : c.phase ≠ .faulted := by simp [phase_eq_faulted_iff, hf]
      have hnext : (coreEffect cfg c (.legal .close)).phase = .detached := phase_of_detached hf rfl
      simp [Phase.successors, hne, hnext]
    | arm =>
      cases ha : c.attached with
      | true =>
        rw [coreEffect_arm_of_attached cfg ha, CoreState.raiseFault_phase]
        simp [Phase.successors, phase_ne_detached_of_attached ha]
      | false =>
        rw [coreEffect_arm_of_detached cfg ha, phase_of_detached hf ha]
        exact List.mem_singleton.2 ((phase_eq_waitFirst_iff _).2 ⟨hf, rfl, rfl, rfl⟩)
    | decode =>
      cases ha : c.attached with
      | true =>
        rw [coreEffect, if_pos ha, CoreState.raiseFault_phase]
        simp [Phase.successors, phase_ne_detached_of_attached ha]
      | false =>
        rw [coreEffect, if_neg (by simp [ha]), phase_of_detached hf ha]
        exact List.mem_singleton.2 (phase_of_detached hf ha)

theorem coreStep_phase_mem (h : c.CaptureInv cfg) (d : Decoded) : (coreStep cfg c d).phase ∈ c.phase.successors d := by
  by_cases hedge : ∃ ts lv, d = .legal (.edge ts lv)
  · obtain ⟨ts, lv, rfl⟩ := hedge
    exact coreStep_edge_phase_mem h ts lv
  by_cases hreset : d = .legal .reset
  · rw [hreset, coreStep_reset]
    exact List.mem_singleton.2 rfl
  cases hf : c.faulted with
  | true =>
    rw [coreStep_of_faulted cfg hf hreset, phase_of_faulted hf]
    exact faulted_mem_successors hreset
  | false =>
    rw [coreStep_of_unfaulted cfg d hf]
    exact coreEffect_phase_mem cfg hf fun ts lv he => hedge ⟨ts, lv, he⟩

/-- Settles O27, from the rows of the table. -/
theorem phaseTransitionsFollowTheTable : Obligations.PhaseTransitionsFollowTheTable := by
  intro w s t h ht
  rw [perform_next ht]
  refine ⟨coreStep_phase_mem h.capture (decode w), fun ts lv hphase hd => ?_⟩
  rw [hd]
  exact coreStep_edge_full_iff h.capture hphase ts lv

end Sys2Proof.Machine
end

section
/-! PROOFS. The Edge Sampler (spec/41_edge_sampler.md R86 to R94): the ignored EDGE, the three outcomes of one that is not, and
what READ sees of either. -/

namespace Sys2Proof.Machine

variable {cfg : Config} {c : CoreState} {s : State} {ts : Tick}

/-! ### The duration and the append -/

/-- R90: the 32-bit difference as a number. -/
theorem duration_toNat (ts ref : Tick) : (duration ts ref).toNat = (ts.toNat + 2 ^ 32 - ref.toNat) % 2 ^ 32 := by
  rw [duration, BitVec.toNat_sub]
  omega

theorem storedPulse_eq_ofNat (d : Tick) : storedPulse d = BitVec.ofNat 8 d.toNat :=
  (BitVec.ofNat_toNat 8 d).symm

theorem cursor_succ_eq_ofNat (c : CoreState) : c.cursor + 1#7 = BitVec.ofNat 7 (c.cursor.toNat + 1) := by
  rw [BitVec.ofNat_add, BitVec.ofNat_toNat, BitVec.setWidth_eq]

/-- An append below 83 as R91 and R92 write it, on the cursor as a number. -/
theorem appendPulse_eq_of_running (hlt : c.cursor.toNat < 83) (hrun : c.running = true) (hfin : c.finished = false)
    (ts d : Tick) : c.appendPulse ts d = { c with
      buf := c.buf.set c.cursor.toNat (BitVec.ofNat 8 d.toNat) hlt
      cursor := BitVec.ofNat 7 (c.cursor.toNat + 1)
      ref := ts
      running := c.cursor.toNat ≠ 82
      finished := c.cursor.toNat = 82 } := by
  have hlast : c.cursor + 1#7 = 83#7 ↔ c.cursor.toNat = 82 := (cursor_succ_eq_cap_iff hlt).trans Nat.succ_inj
  have hbuf : c.buf.setIfInBounds c.cursor.toNat (storedPulse d) =
      c.buf.set c.cursor.toNat (BitVec.ofNat 8 d.toNat) hlt := by
    rw [storedPulse_eq_ofNat]
    ext i hi : 1
    rw [Vector.getElem_setIfInBounds, Vector.getElem_set]
  simp only [CoreState.appendPulse, hbuf, hlast, hrun, hfin, ← cursor_succ_eq_ofNat]
  by_cases h82 : c.cursor.toNat = 82 <;> simp [h82]

/-! ### EDGE as a whole next state -/

/-- R71, R94: EDGE on the core, behind the fault gate; the level is not read. -/
theorem coreStep_edge (cfg : Config) (c : CoreState) (ts : Tick) (lv : BitVec 1) :
    coreStep cfg c (.legal (.edge ts lv)) = if c.faulted then c else c.sampleEdge cfg ts := by
  simp [coreStep, coreEffect]

/-- R86, R87 and R88: an EDGE that the sampler ignores changes nothing but the output, faulted or not. -/
theorem exec_edge_of_ignored (ts : Tick) (lv : BitVec 1)
    (h : s.core.attached = false ∨ s.core.finished = true ∨ (s.cfg.errPolicy = .abort ∧ s.core.error = true)) :
    exec (.edge ts lv) s = .next { s with out := none } := by
  rw [exec_eq, coreStep_edge_of_ignored s.cfg ts lv h]; rfl

section live
variable (ha : c.attached = true) (hfin : c.finished = false) (hgo : ¬ (cfg.errPolicy = .abort ∧ c.error = true))
include ha hfin hgo

/-- R89: the first EDGE. -/
theorem sampleEdge_of_idle (hrun : c.running = false) (ts : Tick) :
    c.sampleEdge cfg ts = { c with ref := ts, running := true } := by
  simp [CoreState.sampleEdge, ha, hfin, hgo, hrun]

/-- R91: an EDGE in the capture band. -/
theorem sampleEdge_of_inBand (hrun : c.running = true) (hband : inCaptureBand cfg (duration ts c.ref) = true) :
    c.sampleEdge cfg ts = c.appendPulse ts (duration ts c.ref) := by
  simp [CoreState.sampleEdge, ha, hfin, hgo, hrun, hband]

/-- R93: an EDGE out of the capture band. -/
theorem sampleEdge_of_outOfBand (hrun : c.running = true) (hband : inCaptureBand cfg (duration ts c.ref) = false) :
    c.sampleEdge cfg ts = { c with error := true } := by
  simp [CoreState.sampleEdge, ha, hfin, hgo, hrun, hband]

end live

/-! ### The error flag -/

/-- R88: under CONTINUE an EDGE does not read error. -/
theorem sampleEdge_setError (hpolicy : cfg.errPolicy = .continue) (c : CoreState) (ts : Tick) :
    ({ c with error := true } : CoreState).sampleEdge cfg ts = { c.sampleEdge cfg ts with error := true } := by
  simp only [CoreState.sampleEdge, hpolicy, reduceCtorEq, false_and, if_false]
  split_ifs <;> rfl

theorem coreStep_edge_setError (hpolicy : cfg.errPolicy = .continue) (c : CoreState) (ts : Tick) (lv : BitVec 1) :
    coreStep cfg { c with error := true } (.legal (.edge ts lv)) =
      { coreStep cfg c (.legal (.edge ts lv)) with error := true } := by
  rw [coreStep_edge, coreStep_edge, sampleEdge_setError hpolicy]
  split <;> rfl

/-- R93: EDGE clears no error. -/
theorem sampleEdge_keeps_error (cfg : Config) (ts : Tick) (herr : c.error = true) : (c.sampleEdge cfg ts).error = true := by
  rcases sampleEdge_cases cfg ts c with ⟨hc, -⟩ | ⟨-, -, -, ⟨-, hc⟩ | ⟨-, -, hc⟩ | ⟨-, -, hc⟩⟩ <;> rw [hc]
  · exact herr
  · exact herr
  · exact herr

/-- R24, R93: only ARM and RESET clear an error. -/
theorem coreStep_keeps_error (cfg : Config) {d : Decoded} (herr : c.error = true) (harm : d ≠ .legal .arm)
    (hreset : d ≠ .legal .reset) : (coreStep cfg c d).error = true := by
  by_cases hedge : ∃ ts lv, d = .legal (.edge ts lv)
  · obtain ⟨ts, lv, rfl⟩ := hedge
    exact coreStep_of_both (P := fun c' => c'.error = true) herr (sampleEdge_keeps_error cfg ts herr)
  · obtain ⟨-, -, -, -, -, herror⟩ :=
      capture_eq_iff.1 (coreStep_capture cfg c (fun ts lv he => hedge ⟨ts, lv, he⟩) harm hreset)
    exact herror.trans herr

/-- R88: after an error under ABORT, EDGE words leave core and configuration as they are. -/
theorem performs_edges_of_aborted {es : List TWord} {t : State} (hpolicy : s.cfg.errPolicy = .abort)
    (herr : s.core.error = true) (hes : ∀ w ∈ es, IsEdgeWord w) (h : performs es s = .next t) :
    t.core = s.core ∧ t.cfg = s.cfg := by
  refine performs_induct (P := fun u => u.core = s.core ∧ u.cfg = s.cfg) (fun w hw u ⟨hcore, hcfg⟩ => ?_) ⟨rfl, rfl⟩ h
  obtain ⟨ts, lv, hd⟩ := hes w hw
  rw [hcore, hcfg, hd]
  exact ⟨coreStep_edge_of_ignored s.cfg ts lv (.inr (.inr ⟨hpolicy, herr⟩)), rfl⟩

/-- R77, R122: CLOSE and then DECODE on an unfaulted core write the outcome of the capture as it stands. -/
theorem performs_close_decode (hf : s.core.faulted = false) : performs [encode .close, encode .decode] s = .next { s with
    core := ({ s.core with attached := false } : CoreState).writeResult (evaluate s.cfg s.core), out := none } := by
  rw [performs_cons, performs_cons, performs_nil, decode_encode, decode_encode, coreStep_of_unfaulted s.cfg _ hf]
  rw [coreStep_of_unfaulted (c := coreEffect s.cfg s.core (.legal .close)) _ _ hf]
  rfl

/-- R122: an unfinished capture times out. -/
theorem evaluate_of_unfinished (cfg : Config) (hfin : c.finished = false) : evaluate cfg c = .timeout := by
  simp [evaluate, hfin]

/-! ### What READ sees -/

/-- R26, R91: EDGE writes no buffer entry but the one at the cursor. -/
theorem sampleEdge_buf_of_ne (cfg : Config) (ts : Tick) {i : Nat} (hi : i < 83) (hne : i ≠ c.cursor.toNat) :
    (c.sampleEdge cfg ts).buf[i] = c.buf[i] := by
  rcases sampleEdge_cases cfg ts c with ⟨hc, -⟩ | ⟨-, -, -, ⟨-, hc⟩ | ⟨-, -, hc⟩ | ⟨-, -, hc⟩⟩ <;> simp only [hc]
  exact Vector.getElem_setIfInBounds_ne _ (Ne.symm hne)

/-- R41: EDGE leaves every register but the PULSE register at the cursor, STATUS and CURSOR. -/
theorem memRead_sampleEdge (cfg : Config) (ts : Tick) {addr : Byte}
    (hpulse : ¬ (c.cursor.toNat < 83 ∧ addr.toNat = c.cursor.toNat)) (hstatus : addr ≠ 0x60#8) (hcursor : addr ≠ 0x61#8) :
    memRead (c.sampleEdge cfg ts) addr = memRead c addr := by
  obtain ⟨-, hresults, hfaults⟩ := sampleEdge_frame cfg ts c
  obtain ⟨hcode, hindex, hmeas, hframe⟩ := resultRegs_eq_iff.1 hresults
  obtain ⟨-, hcause⟩ := faultRegs_eq_iff.1 hfaults
  exact memRead_congr (fun haddr => sampleEdge_buf_of_ne cfg ts (by omega) (by omega)) (fun he => absurd he hstatus)
    (fun he => absurd he hcursor) hcause hcode hindex hmeas hframe

/-! ### The obligations -/

/-- Settles O30: an EDGE after the error is ignored, so the CLOSE and DECODE find the capture unfinished; under CONTINUE EDGE
commutes with setting the error. -/
theorem abortStopsTheCaptureAtTheFirstError : Obligations.AbortStopsTheCaptureAtTheFirstError := by
  refine ⟨fun s ts lv hpolicy herr => exec_edge_of_ignored ts lv (.inr (.inr ⟨hpolicy, herr⟩)),
    fun s es hpolicy herr hfin hf hes => ?_, fun s t u ts lv hpolicy ht hu => ?_⟩
  · obtain ⟨t, ht, -⟩ := performs_total es s
    obtain ⟨hcore, -⟩ := performs_edges_of_aborted hpolicy herr hes ht
    rw [performs_append_andThen, ht, andThen_next, performs_close_decode (hcore ▸ hf),
      evaluate_of_unfinished t.cfg (hcore ▸ hfin)]
    exact ⟨_, rfl, rfl⟩
  · rw [exec_next ht, exec_next hu]
    simp only [coreStep_edge_setError hpolicy, and_self]

/-- Settles O33: the duration lies in the capture band, so EDGE is the append. -/
theorem inBandEdgeAppendsItsDuration : Obligations.InBandEdgeAppendsItsDuration := by
  intro s ts lv d hlt hf ha hfin hgo hrun hwf hd hlo hhi
  have hdur : (duration ts s.core.ref).toNat = d := (duration_toNat ts s.core.ref).trans hd.symm
  have hband : inCaptureBand s.cfg (duration ts s.core.ref) = true :=
    (inCaptureBand_iff s.cfg _).2 ⟨hdur ▸ hlo, hdur ▸ hhi⟩
  constructor
  · rw [← hdur, ← storedPulse_eq_ofNat, storedPulse_toNat hwf hband]
  · rw [exec_of_unfaulted _ hf, coreEffect, sampleEdge_of_inBand ha hfin hgo hrun hband,
      appendPulse_eq_of_running hlt hrun hfin, hdur]
    rfl

/-- Settles O34: the append of O33 at cursor 82, after which the sampler is finished and ignores every EDGE. -/
theorem lastAppendFinishesTheCapture : Obligations.LastAppendFinishesTheCapture := by
  intro s ts lv d hcur hf ha hfin hgo hrun hwf hd hlo hhi
  obtain ⟨-, hexec⟩ := inBandEdgeAppendsItsDuration s ts lv d (by omega) hf ha hfin hgo hrun hwf hd hlo hhi
  refine ⟨_, hexec, by simp [hcur], fun ts' lv' => ?_⟩
  exact exec_edge_of_ignored ts' lv' (.inr (.inl (by simp [hcur])))

/-- Settles O35: the duration lies outside the capture band, and no transaction but ARM and RESET clears an error. -/
theorem outOfBandEdgeSetsErrorOnly : Obligations.OutOfBandEdgeSetsErrorOnly := by
  refine ⟨fun s ts lv d hf ha hfin hgo hrun hd hout => ?_, fun w s t herr harm hreset ht => ?_⟩
  · have hdur : (duration ts s.core.ref).toNat = d := (duration_toNat ts s.core.ref).trans hd.symm
    have hband : inCaptureBand s.cfg (duration ts s.core.ref) = false := by
      rw [Bool.eq_false_iff, ne_eq, inCaptureBand_iff, hdur]
      omega
    rw [exec_of_unfaulted _ hf, coreEffect, sampleEdge_of_outOfBand ha hfin hgo hrun hband]
    rfl
  · rw [perform_next ht]
    exact coreStep_keeps_error s.cfg herr harm hreset

/-- Settles O37: the fault gate or the sampler leaves the other registers alone. -/
theorem edgeChangesOnlyThreeRegisters : Obligations.EdgeChangesOnlyThreeRegisters := by
  intro s t ts lv addr ht hpulse hstatus hcursor
  rw [exec_next ht]
  exact coreStep_of_both (P := fun c' => memRead c' addr = memRead s.core addr) rfl
    (memRead_sampleEdge s.cfg ts hpulse hstatus hcursor)

/-- Settles O28, the first reason to ignore an EDGE. -/
theorem edgeIgnoredWhileDetached : Obligations.EdgeIgnoredWhileDetached := fun _ ts lv ha =>
  exec_edge_of_ignored ts lv (.inl ha)

/-- Settles O29, the second reason to ignore an EDGE. -/
theorem edgeIgnoredWhenFinished : Obligations.EdgeIgnoredWhenFinished := fun _ ts lv hfin =>
  exec_edge_of_ignored ts lv (.inr (.inl hfin))

/-- Settles O31: the sampler is live and idle. -/
theorem firstEdgeSetsTheReference : Obligations.FirstEdgeSetsTheReference := by
  intro s ts lv hf ha hfin hgo hrun
  rw [exec_of_unfaulted _ hf, coreEffect, sampleEdge_of_idle ha hfin hgo hrun]
  rfl

/-- Settles O32, by arithmetic modulo 2^32. -/
theorem durationIsTheForwardDistance : Obligations.DurationIsTheForwardDistance := by
  refine ⟨duration_toNat, fun ref d hd => ?_, fun ref => ?_, fun ref => ?_⟩
  · have href := ref.isLt
    rw [duration_toNat, BitVec.toNat_ofNat]
    omega
  · rw [duration, BitVec.sub_self]; rfl
  · rw [duration, BitVec.sub_sub, BitVec.add_comm, ← BitVec.sub_sub, BitVec.sub_self]; rfl

/-- Settles O36: neither EDGE's effect on the core nor its output reads the level. -/
theorem edgeIgnoresTheLevel : Obligations.EdgeIgnoresTheLevel := by
  intro s ts lv lv'
  rw [exec_eq, exec_eq, coreStep_edge, coreStep_edge]; rfl

end Sys2Proof.Machine
end

section
/-! PROOFS. The Frame Validator (spec/42_frame_validator.md R97 to R102): what each of Validate's two verdicts says of the
buffer. -/

namespace Sys2Proof.Machine

/-- R97: PASS is that every pulse is in the band for its position. -/
theorem validate_eq_pass_iff (cfg : Config) (buf : PulseBuffer) :
    validate cfg buf = .pass ↔ ∀ i : Fin 83, pulseOk cfg i.val buf[i.val] = true := by
  have hnone := find_none_iff fun i : Fin 83 => !pulseOk cfg i.val buf[i.val]
  simp only [Bool.not_eq_false'] at hnone
  rw [← hnone, validate]
  split <;> simp [*]

/-- R102: the pulse that SV names is the first that is out of band, so every pulse before it is in band. -/
theorem validate_eq_sv_iff (cfg : Config) (buf : PulseBuffer) (idx : Index) (m : Byte) :
    validate cfg buf = .sv idx m ↔ ∃ i : Fin 83, idx = BitVec.ofNat 7 i.val ∧ m = buf[i.val] ∧
      pulseOk cfg i.val buf[i.val] = false ∧ ∀ k : Fin 83, k < i → pulseOk cfg k.val buf[k.val] = true := by
  have hfirst := find_first_iff fun i : Fin 83 => !pulseOk cfg i.val buf[i.val]
  simp only [Bool.not_eq_true', Bool.not_eq_false'] at hfirst
  simp only [← hfirst, validate]
  split
  · simp [*]
  · simp [*, eq_comm]

/-- An index of the pulse buffer fits in the 7 bits of SV's index. -/
theorem index_eq_ofNat_iff (idx : Index) (i : Fin 83) : idx = BitVec.ofNat 7 i.val ↔ idx.toNat = i.val := by
  rw [BitVec.toNat_eq, BitVec.toNat_ofNat, Nat.mod_eq_of_lt (by omega)]

/-- Settles O38: the bands are the test that Validate applies to each pulse, and its verdict is the first pulse to fail it. -/
theorem validateReportsTheFirstFailure : Obligations.ValidateReportsTheFirstFailure := by
  intro cfg buf inBand hband
  have hok (i : Fin 83) : pulseOk cfg i.val buf[i.val] = true ↔ inBand i := by rw [pulseOk_iff, hband]
  have hbad (i : Fin 83) : pulseOk cfg i.val buf[i.val] = false ↔ ¬ inBand i := by rw [← hok, Bool.not_eq_true]
  refine ⟨?_, fun idx m => ?_, rfl, rfl, rfl, rfl, rfl⟩
  · simp only [validate_eq_pass_iff, hok]
  · simp only [validate_eq_sv_iff, index_eq_ofNat_iff, hok, hbad, Fin.lt_def]

end Sys2Proof.Machine
end

section
/-! PROOFS. The Bit Decoder (spec/43_bit_decoder.md R106 to R109): what each duration decodes to, when Assemble meets an invalid
data pulse, and when DECODE reports DECODE_INVALID. -/

namespace Sys2Proof.Machine

variable {cfg : Config} {buf : PulseBuffer} {v : Byte}

/-! ### What a duration decodes to -/

theorem bitDecode_eq_zero_iff (cfg : Config) (v : Byte) : bitDecode cfg v = .zero ↔ cfg.db0.contains v = true := by
  unfold bitDecode
  split_ifs <;> simp [*]

theorem bitDecode_eq_one_iff (cfg : Config) (v : Byte) :
    bitDecode cfg v = .one ↔ cfg.db0.contains v = false ∧ cfg.db1.contains v = true := by
  unfold bitDecode
  split_ifs <;> simp [*]

theorem bitDecode_eq_invalid_iff (cfg : Config) (v : Byte) :
    bitDecode cfg v = .invalid ↔ cfg.db0.contains v = false ∧ cfg.db1.contains v = false := by
  unfold bitDecode
  split_ifs <;> simp [*]

/-- R10 (c): the two bit bands have no duration in common. -/
theorem db0_contains_eq_false_of_db1 (hwf : cfg.wf = true) (h1 : cfg.db1.contains v = true) : cfg.db0.contains v = false := by
  obtain ⟨-, -, hgap⟩ := (Config.wf_iff cfg).1 hwf
  rw [Band.contains_iff] at h1
  rw [← Bool.not_eq_true, Band.contains_iff]
  omega

/-! ### The data pulses of a buffer -/

/-- R101: a data pulse is in band when it is in one of the validator's two data bands. -/
theorem pulseOk_dataPulse (cfg : Config) (j : Nat) (v : Byte) :
    pulseOk cfg (4 + 2 * j) v = (cfg.vb0.contains v || cfg.vb1.contains v) := by
  rw [pulseOk, if_neg (by omega), if_neg (by omega), if_neg (by omega)]

/-- Where the decoder's bands are the validator's, a data pulse that passes its band decodes (R109). -/
theorem bitDecode_ne_invalid_of_pulseOk (h0 : cfg.db0 = cfg.vb0) (h1 : cfg.db1 = cfg.vb1) {j : Nat}
    (hok : pulseOk cfg (4 + 2 * j) v = true) : bitDecode cfg v ≠ .invalid := by
  rw [pulseOk_dataPulse, ← h0, ← h1, Bool.or_eq_true] at hok
  rw [Ne, bitDecode_eq_invalid_iff]
  rintro ⟨hzero, hone⟩
  simp [hzero, hone] at hok

/-- Assembly fails at the first pulse, in the order of the loop, that decodes to INVALID (R116). -/
theorem assembleFrom_eq_di_iff (cfg : Config) (buf : PulseBuffer) (js : List (Fin 40)) (b : Frame) (idx : Index) (m : Byte) :
    assembleFrom cfg buf js b = .di idx m ↔
      ∃ j, js.find? (fun j => bitDecode cfg buf[4 + 2 * j.val] = .invalid) = some j ∧
        idx = BitVec.ofNat 7 (4 + 2 * j.val) ∧ m = buf[4 + 2 * j.val] := by
  induction js generalizing b with
  | nil => simp [assembleFrom]
  | cons j js ih =>
    cases hbit : bitDecode cfg buf[4 + 2 * j.val] with
    | zero => rw [assembleFrom_zero js b hbit, ih, List.find?_cons_of_neg (by simp [hbit])]
    | one => rw [assembleFrom_one js b hbit, ih, List.find?_cons_of_neg (by simp [hbit])]
    | invalid => simp [assembleFrom_invalid js b hbit, List.find?_cons_of_pos, hbit, eq_comm]

/-- Assemble fails exactly when some data pulse decodes to INVALID. -/
theorem exists_assemble_eq_di_iff (cfg : Config) (buf : PulseBuffer) :
    (∃ idx m, assemble cfg buf = .di idx m) ↔ ∃ j : Fin 40, bitDecode cfg buf[4 + 2 * j.val] = .invalid := by
  have hfind := List.find?_isSome (xs := List.finRange 40) (p := fun j => bitDecode cfg buf[4 + 2 * j.val] = .invalid)
  simp only [List.mem_finRange, true_and, decide_eq_true_eq, Option.isSome_iff_exists] at hfind
  simp only [assemble, assembleFrom_eq_di_iff, ← hfind]
  exact ⟨fun ⟨_, _, j, hj, _⟩ => ⟨j, hj⟩, fun ⟨j, hj⟩ => ⟨_, _, j, hj, rfl, rfl⟩⟩

/-- At the default configuration Assemble does not fail on what Validate passes (R109). -/
theorem assemble_ne_di_of_validate_default (hpass : validate Config.default buf = .pass) (idx : Index) (m : Byte) :
    assemble Config.default buf ≠ .di idx m := by
  intro hdi
  obtain ⟨j, hinvalid⟩ := (exists_assemble_eq_di_iff _ _).1 ⟨idx, m, hdi⟩
  have hok := (validate_eq_pass_iff _ _).1 hpass ⟨4 + 2 * j.val, by omega⟩
  exact bitDecode_ne_invalid_of_pulseOk rfl rfl hok hinvalid

/-! ### DECODE_INVALID -/

/-- R122: DECODE_INVALID is the outcome of a full capture with no error that validates and does not assemble. -/
theorem evaluate_code_eq_five_iff (cfg : Config) (c : CoreState) : (evaluate cfg c).code = 5#3 ↔
    c.running = false ∧ c.finished = true ∧ c.error = false ∧ validate cfg c.buf = .pass ∧
      ∃ idx m, assemble cfg c.buf = .di idx m := by
  rcases evaluate_cases cfg c with ⟨he, hopen⟩ | ⟨hrun, hfin, ⟨he, herr⟩ | ⟨herr, ⟨i, m, hv, he⟩ |
    ⟨hv, ⟨i, m, ha, he⟩ | ⟨b, ha, ⟨-, he⟩ | ⟨-, he⟩⟩⟩⟩⟩
  case inl => rcases hopen with hopen | hopen <;> simp [he, Reading.code, hopen]
  all_goals simp [Reading.code, *]

/-- R109: the legacy decoder rejects what lies in the validator's long band and outside its own. -/
theorem bitDecode_legacy_eq_invalid (hv : (55 ≤ v.toNat ∧ v.toNat ≤ 59) ∨ (81 ≤ v.toNat ∧ v.toNat ≤ 85)) :
    bitDecode Config.legacy v = .invalid := by
  rw [bitDecode_eq_invalid_iff]
  simp only [← Bool.not_eq_true, Band.contains_iff, Config.legacy, Config.default]
  omega

/-! ### The obligations -/

/-- Settles O39: the bands are tested in turn, and R10 keeps them apart, so that the first test takes nothing from the second. -/
theorem bitDecodeNeverDefaults : Obligations.BitDecodeNeverDefaults := by
  intro cfg v hwf
  refine ⟨?_, ?_, ?_, rfl, rfl, rfl, rfl, by decide⟩
  · rw [bitDecode_eq_zero_iff, Band.contains_iff]
  · rw [bitDecode_eq_one_iff, and_iff_right_of_imp (db0_contains_eq_false_of_db1 hwf), Band.contains_iff]
  · simp only [bitDecode_eq_invalid_iff, ← Bool.not_eq_true, Band.contains_iff]

/-- Settles O40: DECODE writes 5 exactly where a capture that validates does not assemble; the default bands leave no such
capture, and the legacy ones leave those with a data pulse in a gap. -/
theorem defaultConfigurationNeverReportsDecodeInvalid : Obligations.DefaultConfigurationNeverReportsDecodeInvalid := by
  refine ⟨fun s t hcfg hf ha ht => ?_, fun _ idx m hpass => assemble_ne_di_of_validate_default hpass idx m,
    fun v hv => ⟨?_, bitDecode_legacy_eq_invalid hv⟩, fun s j hcfg hf ha hrun hfin herr hpass hv => ?_⟩
  · obtain rfl := Host.Outcome.next.inj ((execDecode_detached hf ha).symm.trans ht)
    rw [CoreState.writeResult_resCode, Ne, evaluate_code_eq_five_iff, hcfg]
    rintro ⟨-, -, -, hpass, idx, m, hdi⟩
    exact assemble_ne_di_of_validate_default hpass idx m hdi
  · have hlong : Config.legacy.vb1.contains v = true := by
      rw [Band.contains_iff]
      simp only [Config.legacy, Config.default]
      omega
    rw [pulseOk_dataPulse Config.legacy 0, hlong, Bool.or_true]
  · have hdi := (exists_assemble_eq_di_iff _ s.core.buf).2 ⟨j, bitDecode_legacy_eq_invalid hv⟩
    refine ⟨_, execDecode_detached hf ha, ?_⟩
    rw [CoreState.writeResult_resCode, evaluate_code_eq_five_iff, hcfg]
    exact ⟨hrun, hfin, herr, hpass, hdi⟩

end Sys2Proof.Machine
end

section
/-! PROOFS. The Frame Assembler (spec/44_frame_assembler.md R111 to R117): where each payload bit lands, which data pulse makes
assembly fail, and which pulses it reads. -/

namespace Sys2Proof.Machine

/-! ### The order of the payload bits in the frame -/

/-- What the loop of R111 keeps after n payload bits: each one pushed stands as many places up its byte as bits of that byte
were pushed after it. -/
def HoldsFirst (r : Fin 40 → Bool) (n : Nat) (b : Frame) : Prop :=
  ∀ j : Fin 40, j.val < n → b[j.val / 8].getLsbD (min n (8 * (j.val / 8) + 8) - 1 - j.val) = r j

/-- A push moves the bits of its own byte up by one and leaves those of the bytes before it, which are complete. -/
theorem holdsFirst_pushBit {r : Fin 40 → Bool} {b : Frame} {j : Fin 40} (h : HoldsFirst r j.val b) :
    HoldsFirst r (j.val + 1) (pushBit b j (r j)) := by
  intro k hk
  rw [pushBit_getLsbD b j (r j) ⟨k.val / 8, by omega⟩ _ (by omega)]
  rcases Nat.lt_succ_iff_lt_or_eq.1 hk with hlt | heq
  · rw [← h k hlt]
    by_cases hbyte : k.val / 8 = j.val / 8
    · rw [if_pos hbyte, if_neg (by omega)]
      congr 1
      omega
    · rw [if_neg hbyte]
      congr 1
      omega
  · obtain rfl := Fin.ext heq
    rw [if_pos rfl, if_pos (by omega)]

/-- The frame of 40 payload bits pushed in arrival order. -/
def pushAll (r : Fin 40 → Bool) : Frame :=
  (List.finRange 40).foldl (fun b j => pushBit b j (r j)) (Vector.replicate 5 0#8)

theorem holdsFirst_foldl_take (r : Fin 40 → Bool) (n : Nat) (hn : n ≤ 40) :
    HoldsFirst r n (((List.finRange 40).take n).foldl (fun b j => pushBit b j (r j)) (Vector.replicate 5 0#8)) := by
  induction n with
  | zero => exact fun j hj => absurd hj (Nat.not_lt_zero _)
  | succ n ih =>
    rw [List.take_succ_eq_append_getElem (by rwa [List.length_finRange]), List.foldl_concat, List.getElem_finRange]
    exact holdsFirst_pushBit (j := ⟨n, hn⟩) (ih (Nat.le_of_succ_le hn))

/-- R113: payload bit j lands at bit 7 − (j mod 8) of byte j div 8. -/
theorem payloadBit_pushAll (r : Fin 40 → Bool) (j : Fin 40) : payloadBit (pushAll r) j = r j := by
  rw [← holdsFirst_foldl_take r 40 (Nat.le_refl 40) j j.isLt, List.take_of_length_le (by rw [List.length_finRange])]
  unfold payloadBit pushAll
  congr 1
  omega

/-- A frame is its 40 payload bits. -/
theorem frame_ext {b b' : Frame} (h : ∀ j, payloadBit b j = payloadBit b' j) : b = b' := by
  refine Vector.ext fun k hk => BitVec.eq_of_getLsbD_eq fun i hi => ?_
  have hbit := h ⟨8 * k + (7 - i), by omega⟩
  simp only [payloadBit, show (8 * k + (7 - i)) / 8 = k by omega, show 7 - (8 * k + (7 - i)) % 8 = i by omega] at hbit
  exact hbit

theorem pushAll_payloadBit (b : Frame) : pushAll (payloadBit b) = b :=
  frame_ext (payloadBit_pushAll _)

/-! ### The loop of R111 -/

/-- Where every data pulse decodes to a bit, the loop pushes these bits. -/
theorem assembleFrom_eq_bytes {cfg : Config} {buf : PulseBuffer} {r : Fin 40 → Bool}
    (h : ∀ j : Fin 40, bitDecode cfg buf[4 + 2 * j.val] = if r j then .one else .zero) (js : List (Fin 40)) (b : Frame) :
    assembleFrom cfg buf js b = .bytes (js.foldl (fun b j => pushBit b j (r j)) b) := by
  induction js generalizing b with
  | nil => rfl
  | cons j js ih =>
    have hj := h j
    cases hr : r j with
    | false => rw [assembleFrom_zero js b (by simpa [hr] using hj), ih, List.foldl_cons, hr]
    | true => rw [assembleFrom_one js b (by simpa [hr] using hj), ih, List.foldl_cons, hr]

theorem assemble_eq_bytes_pushAll {cfg : Config} {buf : PulseBuffer} {r : Fin 40 → Bool}
    (h : ∀ j : Fin 40, bitDecode cfg buf[4 + 2 * j.val] = if r j then .one else .zero) :
    assemble cfg buf = .bytes (pushAll r) :=
  assembleFrom_eq_bytes h _ _

/-- Data pulses that do not decode to INVALID decode to bits (R106). -/
theorem exists_bits_of_ne_invalid {cfg : Config} {buf : PulseBuffer}
    (h : ∀ j : Fin 40, bitDecode cfg buf[4 + 2 * j.val] ≠ .invalid) :
    ∃ r : Fin 40 → Bool, ∀ j : Fin 40, bitDecode cfg buf[4 + 2 * j.val] = if r j then .one else .zero := by
  refine ⟨fun j => bitDecode cfg buf[4 + 2 * j.val] = .one, fun j => ?_⟩
  cases hbit : bitDecode cfg buf[4 + 2 * j.val] with
  | zero => simp [hbit]
  | one => simp [hbit]
  | invalid => exact absurd hbit (h j)

/-- An assembled frame is made of data pulses that all decode to bits. -/
theorem bitDecode_ne_invalid_of_assemble_eq_bytes {cfg : Config} {buf : PulseBuffer} {b : Frame}
    (h : assemble cfg buf = .bytes b) (j : Fin 40) : bitDecode cfg buf[4 + 2 * j.val] ≠ .invalid := by
  intro hinvalid
  obtain ⟨idx, m, hdi⟩ := (exists_assemble_eq_di_iff cfg buf).2 ⟨j, hinvalid⟩
  rw [h] at hdi
  cases hdi

theorem assembleFrom_congr {cfg : Config} {buf buf' : PulseBuffer}
    (h : ∀ j : Fin 40, buf[4 + 2 * j.val] = buf'[4 + 2 * j.val]) (js : List (Fin 40)) (b : Frame) :
    assembleFrom cfg buf js b = assembleFrom cfg buf' js b := by
  induction js generalizing b with
  | nil => rfl
  | cons j js ih => simp only [assembleFrom, h j, ih]

/-! ### The obligations -/

/-- Settles O41: assembly pushes the bits the data pulses decode to, and a frame is the push of its own payload bits. -/
theorem payloadBitsLandMostSignificantFirst : Obligations.PayloadBitsLandMostSignificantFirst := by
  intro cfg buf b
  constructor
  · intro hbytes j
    obtain ⟨r, hr⟩ := exists_bits_of_ne_invalid (bitDecode_ne_invalid_of_assemble_eq_bytes hbytes)
    obtain rfl : pushAll r = b := Assembled.bytes.inj ((assemble_eq_bytes_pushAll hr).symm.trans hbytes)
    rw [hr j, ← payloadBit_pushAll r j, payloadBit]
  · intro hbits
    have hpush : assemble cfg buf = .bytes (pushAll (payloadBit b)) := assemble_eq_bytes_pushAll hbits
    rw [hpush, pushAll_payloadBit]

/-- Settles O42: the loop fails at the first data pulse in its order to decode to INVALID, and its order is arrival order. -/
theorem assemblyFailsAtTheFirstInvalidPulse : Obligations.AssemblyFailsAtTheFirstInvalidPulse := by
  intro cfg buf idx m
  have hindex (j : Fin 40) : idx = BitVec.ofNat 7 (4 + 2 * j.val) ↔ idx.toNat = 4 + 2 * j.val :=
    index_eq_ofNat_iff idx ⟨4 + 2 * j.val, by omega⟩
  simp only [assemble, assembleFrom_eq_di_iff, find_first_iff, hindex, decide_eq_true_eq, decide_eq_false_iff_not, Fin.lt_def]
  refine exists_congr fun j => ?_
  constructor
  · rintro ⟨⟨hinvalid, hfirst⟩, hidx, rfl⟩
    exact ⟨hidx, rfl, hinvalid, hfirst⟩
  · rintro ⟨hidx, rfl, hinvalid, hfirst⟩
    exact ⟨⟨hinvalid, hfirst⟩, hidx, rfl⟩

/-- Settles O43: two buffers that agree on the data pulses agree at every turn of the loop. -/
theorem assemblerReadsOnlyDataPulses : Obligations.AssemblerReadsOnlyDataPulses :=
  fun _ _ _ h => assembleFrom_congr h _ _

end Sys2Proof.Machine
end

section
/-! PROOFS. The Checksum Validator and DECODE (spec/45_checksum_decode.md R118 to R127): the outcome of each capture, how DECODE
writes it, and that a written outcome stands until the next ARM or RESET. -/

namespace Sys2Proof.Machine

variable {cfg : Config} {c : CoreState} {s : State} {b : Frame} {i : Index} {m : Byte}

/-! ### The checksum -/

/-- R118: the sum, not reduced before the end, modulo 256. -/
theorem checksumOk_iff (b : Frame) :
    checksumOk b = true ↔ (b[0].toNat + b[1].toNat + b[2].toNat + b[3].toNat) % 256 = b[4].toNat := by
  simp [checksumOk]

/-- The 8-bit sum of four bytes is their sum modulo 256 (R118). -/
theorem toNat_sum_four (b0 b1 b2 b3 : Byte) :
    (b0 + b1 + b2 + b3).toNat = (b0.toNat + b1.toNat + b2.toNat + b3.toNat) % 256 := by
  simp only [BitVec.toNat_add]
  omega

/-! ### The outcome of each capture (R122) -/

theorem evaluate_of_open (cfg : Config) (h : c.running = true ∨ c.finished = false) : evaluate cfg c = .timeout := by
  simp [evaluate, h]

section closed
variable (hrun : c.running = false) (hfin : c.finished = true)
include hrun hfin

theorem evaluate_of_error (cfg : Config) (herr : c.error = true) : evaluate cfg c = .captureError := by
  simp [evaluate, hrun, hfin, herr]

section clean
variable (herr : c.error = false)
include herr

theorem evaluate_of_sv (hv : validate cfg c.buf = .sv i m) : evaluate cfg c = .structViolation i m := by
  simp [evaluate, hrun, hfin, herr, hv]

variable (hv : validate cfg c.buf = .pass)
include hv

theorem evaluate_of_di (ha : assemble cfg c.buf = .di i m) : evaluate cfg c = .decodeInvalid i m := by
  simp [evaluate, hrun, hfin, herr, hv, ha]

theorem evaluate_of_bytes (ha : assemble cfg c.buf = .bytes b) :
    evaluate cfg c = if checksumOk b then .ok b else .checksumMismatch := by
  simp [evaluate, hrun, hfin, herr, hv, ha]

end clean
end closed

/-- OK has one way to come about (R124). -/
theorem clean_of_evaluate_eq_ok (h : evaluate cfg c = .ok b) :
    c.running = false ∧ c.finished = true ∧ c.error = false ∧ validate cfg c.buf = .pass ∧
      assemble cfg c.buf = .bytes b ∧ checksumOk b = true := by
  rcases evaluate_cases cfg c with ⟨he, -⟩ | ⟨hrun, hfin, ⟨he, -⟩ | ⟨herr, ⟨i, m, -, he⟩ |
    ⟨hv, ⟨i, m, -, he⟩ | ⟨b', ha, ⟨hsum, he⟩ | ⟨-, he⟩⟩⟩⟩⟩
  all_goals rw [he] at h; cases h
  exact ⟨hrun, hfin, herr, hv, ha, hsum⟩

/-! ### Outcomes and the registers they are written to (R123) -/

/-- R29: NONE is no outcome's code. -/
theorem Reading.code_ne_zero (o : Reading) : o.code ≠ 0#3 := by
  cases o <;> simp [Reading.code]

/-- Code 1 is OK's alone, and OK's value is its frame. -/
theorem Reading.eq_ok_of_code {o : Reading} (h : o.code = 1#3) : o = .ok o.bytes := by
  cases o with
  | ok b => rfl
  | _ => cases h

/-- R127: each code of R29 names its outcome, whose values stand in the other registers. -/
theorem result_writeResult (o : Reading) (c : CoreState) : (c.writeResult o).result = some o := by
  cases o <;> rfl

theorem result_of_none (h : c.resCode = 0#3) : c.result = none := by
  simp [CoreState.result, h]

/-- DECODE of a detached core, its outcome known. -/
theorem exec_decode_of_outcome {o : Reading} (hf : s.core.faulted = false) (ha : s.core.attached = false)
    (ho : evaluate s.cfg s.core = o) : exec .decode s = .next { s with core := s.core.writeResult o, out := none } :=
  ho ▸ execDecode_detached hf ha

/-- R121: what DECODE does to a core that is attached. -/
theorem coreEffect_decode_of_attached (cfg : Config) (ha : c.attached = true) :
    coreEffect cfg c (.legal .decode) = c.raiseFault .decodeWhileAttached := by
  rw [coreEffect, if_pos ha]

/-- R123: what DECODE does to a core that is detached. -/
theorem coreEffect_decode_of_detached (cfg : Config) (ha : c.attached = false) :
    coreEffect cfg c (.legal .decode) = c.writeResult (evaluate cfg c) := by
  rw [coreEffect, if_neg (by simp [ha])]

/-! ### A written outcome stands (R125) -/

/-- A detached core whose result registers hold the outcome of its own capture. -/
structure CoreState.Settled (cfg : Config) (c : CoreState) : Prop where
  detached : c.attached = false
  outcome : c.writeResult (evaluate cfg c) = c

theorem settled_writeResult (ha : c.attached = false) : (c.writeResult (evaluate cfg c)).Settled cfg where
  detached := ha
  outcome := by rw [evaluate_of_capture_eq (c := c) cfg rfl]; rfl

/-- DECODE writes what stands there already, and is ignored where a fault is latched. -/
theorem CoreState.Settled.coreStep_decode (h : c.Settled cfg) : coreStep cfg c (.legal .decode) = c :=
  coreStep_of_both (P := fun c' => c' = c) rfl ((coreEffect_decode_of_detached cfg h.detached).trans h.outcome)

/-- No transaction but ARM and RESET touches a settled core's capture or results. -/
theorem CoreState.Settled.coreStep (h : c.Settled cfg) {d : Decoded} (harm : d ≠ .legal .arm) (hreset : d ≠ .legal .reset) :
    (coreStep cfg c d).Settled cfg ∧ (coreStep cfg c d).resultRegs = c.resultRegs := by
  by_cases hdecode : d = .legal .decode
  · rw [hdecode, h.coreStep_decode]
    exact ⟨h, rfl⟩
  · have hresults := coreStep_resultRegs cfg c hdecode harm hreset
    have hcapture := coreStep_capture_of_detached cfg h.detached harm hreset
    refine ⟨⟨coreStep_stays_detached cfg h.detached harm, ?_⟩, hresults⟩
    rw [writeResult_eq_self_iff, hresults, evaluate_of_capture_eq cfg hcapture]
    exact (writeResult_eq_self_iff _ c).1 h.outcome

theorem performs_of_settled {ws : List TWord} {t : State} (hs : s.core.Settled s.cfg)
    (hws : ∀ w ∈ ws, decode w ≠ .legal .arm ∧ decode w ≠ .legal .reset) (h : performs ws s = .next t) :
    t.core.Settled t.cfg ∧ t.core.resultRegs = s.core.resultRegs := by
  refine performs_induct (P := fun u => u.core.Settled u.cfg ∧ u.core.resultRegs = s.core.resultRegs)
    (fun w hw u ⟨hu, hresults⟩ => ?_) ⟨hs, rfl⟩ h
  obtain ⟨harm, hreset⟩ := hws w hw
  obtain ⟨hnext, hsame⟩ := hu.coreStep harm hreset
  exact ⟨hnext, hsame.trans hresults⟩

/-! ### The obligations -/

/-- Settles O44: the check is the sum as a number, which the 8-bit sum has too. -/
theorem checksumIsTheSumModulo256 : Obligations.ChecksumIsTheSumModulo256 := by
  refine ⟨fun b0 b1 b2 b3 b4 => ?_, fun b0 b1 b2 b3 b4 => checksumOk_iff _, by decide, by decide, by decide⟩
  rw [← BitVec.toNat_inj, toNat_sum_four]
  exact checksumOk_iff _

/-- Settles O51: WriteResult writes a code and the values that name the outcome again. -/
theorem resultRegistersCarryTheOutcome : Obligations.ResultRegistersCarryTheOutcome :=
  ⟨result_writeResult, fun _ => result_of_none⟩

/-- Settles O45, from DECODE's effect on an attached and on a detached core, whose outcome is TIMEOUT where it was never armed. -/
theorem decodeWhileAttachedFaults : Obligations.DecodeWhileAttachedFaults := by
  refine ⟨fun s hf ha => ?_, fun s hf ha => ?_, ?_⟩
  · rw [exec_of_unfaulted .decode hf, coreEffect_decode_of_attached s.cfg ha]; rfl
  · exact ⟨_, exec_decode_of_outcome hf ha rfl, hf, Reading.code_ne_zero _⟩
  · have houtcome : evaluate State.reset.cfg State.reset.core = .timeout := evaluate_of_unfinished _ rfl
    exact ⟨_, exec_decode_of_outcome rfl rfl houtcome, rfl⟩

/-- Settles O46: each premise names the outcome, and WriteResult of an outcome is the write claimed. -/
theorem decodeWritesTheFirstOutcomeThatApplies : Obligations.DecodeWritesTheFirstOutcomeThatApplies := by
  intro s hf ha writes
  have hwrites (o : Reading) (ho : evaluate s.cfg s.core = o) : writes o.code o.index o.measured o.bytes :=
    exec_decode_of_outcome hf ha ho
  refine ⟨fun hopen => hwrites _ (evaluate_of_open s.cfg hopen),
    fun hrun hfin herr => hwrites _ (evaluate_of_error hrun hfin s.cfg herr), fun hrun hfin herr => ⟨fun i m hv => ?_,
    fun hv => ⟨fun i m hdi => ?_, fun b hb => ⟨fun hsum => ?_, fun hsum => ?_⟩⟩⟩⟩
  · exact hwrites _ (evaluate_of_sv hrun hfin herr hv)
  · exact hwrites _ (evaluate_of_di hrun hfin herr hv hdi)
  · exact hwrites (.ok b) (by rw [evaluate_of_bytes hrun hfin herr hv hb, if_pos hsum])
  · exact hwrites .checksumMismatch (by rw [evaluate_of_bytes hrun hfin herr hv hb, hsum]; rfl)

/-- Settles O47: code 1 makes the outcome OK with the frame written, and OK has one way to come about. -/
theorem okOnlyFromACleanCapture : Obligations.OkOnlyFromACleanCapture := by
  intro s t hf ha ht hcode
  obtain rfl := Host.Outcome.next.inj ((execDecode_detached hf ha).symm.trans ht)
  obtain ⟨hrun, hfin, herr, hv, hbytes, hsum⟩ := clean_of_evaluate_eq_ok (Reading.eq_ok_of_code hcode)
  exact ⟨hfin, hrun, herr, hv, bitDecode_ne_invalid_of_assemble_eq_bytes hbytes, hbytes, hsum⟩

/-- Settles O48: DECODE settles the core, and a settled core stays so until ARM or RESET, with the results it has. -/
theorem decodeIsIdempotentOnAClosedCapture : Obligations.DecodeIsIdempotentOnAClosedCapture := by
  refine ⟨fun s t ht => ?_, fun s t u v ws hf ha ht hws hu hv => ?_⟩
  · rw [exec_next ht]
    have hattached := coreStep_attached s.cfg s.core (d := .legal .decode) (by simp) (by simp) (by simp)
    obtain ⟨hbuf, hcursor, href, hrunning, hfinished, herror⟩ :=
      capture_eq_iff.1 (coreStep_capture s.cfg s.core (d := .legal .decode) (by simp) (by simp) (by simp))
    exact ⟨hbuf, hcursor, hrunning, hfinished, herror, href, hattached⟩
  · obtain rfl := Host.Outcome.next.inj ((execDecode_detached hf ha).symm.trans ht)
    obtain ⟨hsettled, hresults⟩ := performs_of_settled (settled_writeResult ha) (fun w hw => (hws w hw).2) hu
    rw [exec_next hv, hsettled.coreStep_decode]
    exact resultRegs_eq_iff.1 hresults

end Sys2Proof.Machine
end

section
/-! PROOFS. The round trip (spec/45_checksum_decode.md R126): 84 EDGEs whose durations are those of a frame fill the capture,
and the capture decodes to that frame. -/

namespace Sys2Proof.Machine

variable {b : Frame} {d : Fin 83 → Tick} {buf : PulseBuffer}

/-! ### The durations a frame asks for -/

/-- The durations that R126 allows for a capture of `b`, position by position. -/
structure FrameTimed (b : Frame) (d : Fin 83 → Tick) : Prop where
  hs0 : 11 ≤ (d 0).toNat ∧ (d 0).toNat ≤ 50
  hs1 : 65 ≤ (d 1).toNat ∧ (d 1).toNat ≤ 95
  hs2 : 65 ≤ (d 2).toNat ∧ (d 2).toNat ≤ 95
  header : ∀ j : Fin 40, 40 ≤ (d ⟨3 + 2 * j.val, by omega⟩).toNat ∧ (d ⟨3 + 2 * j.val, by omega⟩).toNat ≤ 60
  data : ∀ j : Fin 40, if payloadBit b j
    then 55 ≤ (d ⟨4 + 2 * j.val, by omega⟩).toNat ∧ (d ⟨4 + 2 * j.val, by omega⟩).toNat ≤ 85
    else 15 ≤ (d ⟨4 + 2 * j.val, by omega⟩).toNat ∧ (d ⟨4 + 2 * j.val, by omega⟩).toNat ≤ 35

/-- The positions of R26: three handshake pulses, then header and data of each payload bit. -/
theorem pulse_position_cases (i : Fin 83) : i = 0 ∨ i = 1 ∨ i = 2 ∨
    (∃ j : Fin 40, i = ⟨3 + 2 * j.val, by omega⟩) ∨ ∃ j : Fin 40, i = ⟨4 + 2 * j.val, by omega⟩ := by
  simp only [Fin.ext_iff]
  by_cases hhandshake : i.val ≤ 2
  · change i.val = 0 ∨ i.val = 1 ∨ i.val = 2 ∨ _
    omega
  · rcases Nat.mod_two_eq_zero_or_one i.val with heven | hodd
    · exact .inr (.inr (.inr (.inr ⟨⟨(i.val - 4) / 2, by omega⟩, by simp only; omega⟩)))
    · exact .inr (.inr (.inr (.inl ⟨⟨(i.val - 3) / 2, by omega⟩, by simp only; omega⟩)))

/-- A data pulse's duration lies in one of the two bit bands. -/
theorem FrameTimed.data_or (h : FrameTimed b d) (j : Fin 40) :
    (15 ≤ (d ⟨4 + 2 * j.val, by omega⟩).toNat ∧ (d ⟨4 + 2 * j.val, by omega⟩).toNat ≤ 35) ∨
    (55 ≤ (d ⟨4 + 2 * j.val, by omega⟩).toNat ∧ (d ⟨4 + 2 * j.val, by omega⟩).toNat ≤ 85) := by
  have hdata := h.data j
  split at hdata
  · exact .inr hdata
  · exact .inl hdata

/-- The bands of R126 lie inside the default capture band (R91). -/
theorem FrameTimed.inCaptureBand (h : FrameTimed b d) (i : Fin 83) : inCaptureBand Config.default (d i) = true := by
  rw [inCaptureBand_iff]
  change 10 < (d i).toNat ∧ (d i).toNat < 100
  rcases pulse_position_cases i with rfl | rfl | rfl | ⟨j, rfl⟩ | ⟨j, rfl⟩
  · have := h.hs0; omega
  · have := h.hs1; omega
  · have := h.hs2; omega
  · have := h.header j; omega
  · have := h.data_or j; omega

section stored
variable (h : FrameTimed b d) (hbuf : ∀ i : Fin 83, buf[i.val] = storedPulse (d i))
include h hbuf

theorem FrameTimed.toNat_pulse (i : Fin 83) : buf[i.val].toNat = (d i).toNat := by
  rw [hbuf, storedPulse_toNat (cfg := Config.default) (by decide) (h.inCaptureBand i)]

/-- R97 to R101: the durations R126 allows are in the default bands for their positions. -/
theorem FrameTimed.validate_eq_pass : validate Config.default buf = .pass := by
  refine (validate_eq_pass_iff _ _).2 fun i => ?_
  rw [pulseOk_iff, h.toNat_pulse hbuf]
  rcases pulse_position_cases i with rfl | rfl | rfl | ⟨j, rfl⟩ | ⟨j, rfl⟩
  · have := h.hs0
    change 10 ≤ _ ∧ _ ≤ 50
    omega
  · exact h.hs1
  · exact h.hs2
  · rw [if_neg (by simp), if_neg (by simp; omega), if_pos (by simp only; omega)]
    exact h.header j
  · rw [if_neg (by simp), if_neg (by simp; omega), if_neg (by simp only; omega)]
    exact h.data_or j

/-- R106, R113: each data pulse decodes to its payload bit, so the frame is assembled. -/
theorem FrameTimed.assemble_eq_bytes : assemble Config.default buf = .bytes b := by
  refine (payloadBitsLandMostSignificantFirst _ _ _).2 fun j => ?_
  obtain ⟨hzero, hone, -⟩ := bitDecodeNeverDefaults Config.default buf[4 + 2 * j.val] (by decide)
  have hpulse : buf[4 + 2 * j.val].toNat = (d ⟨4 + 2 * j.val, by omega⟩).toNat :=
    h.toNat_pulse hbuf ⟨4 + 2 * j.val, by omega⟩
  rw [hpulse] at hzero hone
  have hdata := h.data j
  rw [payloadBit] at hdata
  split
  case isTrue hbit => exact hone.2 (by rwa [if_pos hbit] at hdata)
  case isFalse hbit => exact hzero.2 (by rwa [if_neg hbit] at hdata)

end stored

/-! ### The 84 EDGEs -/

theorem finRange_take_succ {m n : Nat} (hn : n < m) :
    (List.finRange m).take (n + 1) = (List.finRange m).take n ++ [⟨n, hn⟩] := by
  rw [List.take_succ_eq_append_getElem (by rwa [List.length_finRange]), List.getElem_finRange]
  rfl

/-- A run goes on with one word more. -/
theorem performs_append_singleton {ws : List TWord} {s u : State} (h : performs ws s = .next u) (w : TWord) :
    performs (ws ++ [w]) s =
      .next { u with core := coreStep u.cfg u.core (decode w), out := stepOutput u.core (decode w) } := by
  rw [performs_append_andThen, h, andThen_next, performs_cons, performs_nil]

section edges
variable (ts : Vector Tick 84) (lv : Vector (BitVec 1) 84)

/-- Pulse i's duration, from EDGE i to EDGE i + 1 (R90). -/
def pulseDuration (i : Fin 83) : Tick := duration ts[i.val + 1] ts[i.val]

/-- The n-th EDGE's word. -/
def edgeWordAt (n : Fin 84) : TWord := encode (.edge ts[n] lv[n])

theorem decode_edgeWordAt (n : Fin 84) : decode (edgeWordAt ts lv n) = .legal (.edge ts[n] lv[n]) :=
  decode_encode _

variable {s : State} (hinv : s.Inv) (hphase : s.core.phase = .waitFirst)
  (hband : ∀ i, inCaptureBand s.cfg (pulseDuration ts i) = true)
include hinv hphase hband

/-- R89, R91: from WAIT_FIRST, EDGEs 0 to n leave a capture that holds the first n durations, with EDGE n as the reference. -/
theorem performs_edges_take (n : Nat) (hn : n < 84) :
    ∃ t, performs (((List.finRange 84).take (n + 1)).map (edgeWordAt ts lv)) s = .next t ∧ t.cfg = s.cfg ∧
      t.core.Holds (((List.finRange 83).take n).map fun i => storedPulse (pulseDuration ts i)) ∧ t.core.ref = ts[n] := by
  induction n with
  | zero =>
    refine ⟨_, performs_cons, rfl, ?_⟩
    simp only [decode_edgeWordAt]
    exact holds_nil_of_waitFirst hinv.capture hphase _ _
  | succ n ih =>
    obtain ⟨u, hu, hcfg, hholds, href⟩ := ih (by omega)
    have hd : duration ts[n + 1] u.core.ref = pulseDuration ts ⟨n, by omega⟩ := by rw [href]; rfl
    have hstep := hholds.append (cfg := u.cfg) (ts := ts[n + 1]) (by simp; omega) lv[n + 1] (by rw [hd, hcfg]; exact hband _)
    rw [finRange_take_succ hn, List.map_append, finRange_take_succ (m := 83) (by omega), List.map_append]
    refine ⟨_, performs_append_singleton hu _, hcfg, ?_⟩
    rw [hd] at hstep
    simp only [decode_edgeWordAt]
    exact hstep

/-- The 84 EDGEs leave the capture full and error-free, with their 83 durations in the buffer. -/
theorem performs_edges :
    ∃ t, performs ((List.finRange 84).map (edgeWordAt ts lv)) s = .next t ∧ t.cfg = s.cfg ∧ t.core.faulted = false ∧
      t.core.running = false ∧ t.core.finished = true ∧ t.core.error = false ∧
      ∀ i : Fin 83, t.core.buf[i.val] = storedPulse (pulseDuration ts i) := by
  obtain ⟨t, ht, hcfg, hholds, -⟩ := performs_edges_take ts lv hinv hphase hband 83 (by omega)
  rw [List.take_of_length_le (by simp)] at ht hholds
  exact ⟨t, ht, hcfg, hholds.faulted, by simp [hholds.running], by simp [hholds.finished], hholds.error,
    fun i => hholds.stored i _ (by simp)⟩

end edges

/-- Settles O50: the 84 EDGEs fill the capture with the durations given, which pass the validator and decode to the
frame's bits. -/
theorem roundTripRecoversTheFrame : Obligations.RoundTripRecoversTheFrame := by
  intro s b ts lv hinv hcfg hphase hsum h0 h1 h2 hheader hdata
  have htimed : FrameTimed b (pulseDuration ts) := by
    refine ⟨h0, h1, h2, fun j => ?_, fun j => ?_⟩
    · simpa only [pulseDuration, duration, show 3 + 2 * j.val + 1 = 4 + 2 * j.val by omega] using hheader j
    · simpa only [payloadBit, pulseDuration, duration, show 4 + 2 * j.val + 1 = 5 + 2 * j.val by omega] using hdata j
  obtain ⟨t, ht, htcfg, hf, hrun, hfin, herr, hbuf⟩ :=
    performs_edges ts lv hinv hphase (by rw [hcfg]; exact htimed.inCaptureBand)
  have houtcome : evaluate t.cfg t.core = .ok b := by
    rw [htcfg, hcfg, evaluate_of_bytes hrun hfin herr (htimed.validate_eq_pass hbuf) (htimed.assemble_eq_bytes hbuf),
      if_pos ((checksumOk_iff b).2 hsum)]
  change ∃ u, performs ((List.finRange 84).map (edgeWordAt ts lv) ++ [encode .close, encode .decode]) s = .next u ∧
    u.core.resCode = 1#3 ∧ u.core.frame = b
  rw [performs_append_andThen, ht, andThen_next, performs_close_decode hf, houtcome]
  exact ⟨_, rfl, rfl, rfl⟩

end Sys2Proof.Machine
end

section
/-! PROOFS. Faults (spec/60_exceptions.md R131 to R133): the table of causes, each cause's one effect, and the gate while faulted. -/

namespace Sys2Proof.Machine

variable {c : CoreState} {d : Decoded} {f : FaultCause} {s t : State} {w : TWord}

/-! ### The causes -/

/-- R131's table: the transaction that raises each cause on an unfaulted core, in the state given. -/
inductive CoreState.Raises (c : CoreState) : Decoded → FaultCause → Prop where
  | illegalOp (why : Illegal) : c.Raises (.illegal why) .illegalOp
  | armWhileAttached (ha : c.attached = true) : c.Raises (.legal .arm) .armWhileAttached
  | decodeWhileAttached (ha : c.attached = true) : c.Raises (.legal .decode) .decodeWhileAttached

theorem exists_raises_iff : (∃ f, c.Raises d f) ↔
    (∃ why, d = .illegal why) ∨ (d = .legal .arm ∧ c.attached = true) ∨ (d = .legal .decode ∧ c.attached = true) := by
  constructor
  · rintro ⟨_, why | ha | ha⟩
    · exact .inl ⟨why, rfl⟩
    · exact .inr (.inl ⟨rfl, ha⟩)
    · exact .inr (.inr ⟨rfl, ha⟩)
  · rintro (⟨why, rfl⟩ | ⟨rfl, ha⟩ | ⟨rfl, ha⟩)
    · exact ⟨_, .illegalOp why⟩
    · exact ⟨_, .armWhileAttached ha⟩
    · exact ⟨_, .decodeWhileAttached ha⟩

/-! ### What a fault does, and what raises none -/

/-- R132: a transaction that raises a cause does nothing else. -/
theorem CoreState.Raises.coreEffect (cfg : Config) (h : c.Raises d f) : coreEffect cfg c d = c.raiseFault f := by
  cases h with
  | illegalOp why => rfl
  | armWhileAttached ha => exact coreEffect_arm_of_attached cfg ha
  | decodeWhileAttached ha => exact coreEffect_decode_of_attached cfg ha

/-- No transaction that raises a cause has an output. -/
theorem CoreState.Raises.stepOutput (h : c.Raises d f) : stepOutput c d = none := by
  cases h <;> rfl

/-- R131: what stands in no row of the table latches no fault. -/
theorem coreEffect_unfaulted (cfg : Config) (hf : c.faulted = false) (hnone : ∀ f, ¬ c.Raises d f) :
    (coreEffect cfg c d).faulted = false := by
  cases d with
  | illegal why => exact absurd (.illegalOp why) (hnone _)
  | legal i =>
    cases i with
    | arm =>
      have ha : c.attached = false := Bool.eq_false_iff.2 fun ha => hnone _ (.armWhileAttached ha)
      rw [coreEffect_arm_of_detached cfg ha]
      exact hf
    | decode =>
      have ha : c.attached = false := Bool.eq_false_iff.2 fun ha => hnone _ (.decodeWhileAttached ha)
      rw [coreEffect_decode_of_detached cfg ha]
      exact hf
    | edge ts lv => exact (faultRegs_eq_iff.1 (sampleEdge_frame cfg ts c).2.2).1.trans hf
    | reset => rfl
    | nop | close | read addr => exact hf

/-- The whole next state after a fault (R132). -/
theorem perform_of_raises (hf : s.core.faulted = false) (h : s.core.Raises (decode w) f) :
    perform w s = .next { s with core := s.core.raiseFault f, out := none } := by
  rw [perform_eq, coreStep_of_unfaulted s.cfg _ hf, h.coreEffect, h.stepOutput]

theorem perform_faulted_iff (hf : s.core.faulted = false) (ht : perform w s = .next t) :
    t.core.faulted = true ↔ ∃ f, s.core.Raises (decode w) f := by
  constructor
  · intro hfault
    by_contra! hnone
    have hunfaulted : t.core.faulted = false := by
      rw [perform_next ht, coreStep_of_unfaulted s.cfg _ hf]
      exact coreEffect_unfaulted s.cfg hf hnone
    simp [hunfaulted] at hfault
  · rintro ⟨f, h⟩
    rw [perform_of_raises hf h] at ht
    cases ht
    rfl

/-! ### The obligations -/

/-- Settles O53: the rows of R131's table are what latches a fault, and each row has its own code. -/
theorem faultCausesAndTheirConditions : Obligations.FaultCausesAndTheirConditions := by
  intro w s t hf ht
  have hcause {d : Decoded} {f : FaultCause} (hd : decode w = d) (h : s.core.Raises d f) : t.core.faultCause = f.code := by
    rw [perform_of_raises hf (hd ▸ h)] at ht
    cases ht
    rfl
  exact ⟨(perform_faulted_iff hf ht).trans exists_raises_iff, fun ⟨why, hd⟩ => hcause hd (.illegalOp why),
    fun hd ha => hcause hd (.armWhileAttached ha), fun hd ha => hcause hd (.decodeWhileAttached ha)⟩

/-- Settles O54: a fault has a row of R131's table behind it, whose effect writes the two fields alone; the gate keeps them. -/
theorem faultsArePrecise : Obligations.FaultsArePrecise := by
  refine ⟨fun w s t hf ht hfault => ?_, fun w s t hf hreset ht => ?_⟩
  · obtain ⟨f, h⟩ := (perform_faulted_iff hf ht).1 hfault
    rw [perform_of_raises hf h] at ht
    cases ht
    exact ⟨rfl, f.code_ne_zero⟩
  · have hcore : t.core = s.core := by rw [perform_next ht]; exact coreStep_of_faulted s.cfg hf hreset
    rw [hcore]
    exact ⟨hf, rfl⟩

/-- Settles O55: the gate stops every word but RESET, and READ's output does not depend on it. -/
theorem onlyResetAndReadActWhileFaulted : Obligations.OnlyResetAndReadActWhileFaulted := by
  refine ⟨fun w s hf hreset hread => ?_, fun s addr _ => ?_⟩
  · exact perform_of_ignored (coreStep_of_faulted s.cfg hf hreset) hread
  · rw [perform_of_legal (decode_encode _), exec_read]

end Sys2Proof.Machine
end

section
/-! PROOFS. The invariants of the machine at reset (spec/10_state.md R25, R26, R29, R30, R32). -/

namespace Sys2Proof.Machine

/-- Settles O12: the reset core has both invariants under every configuration, the default one of `State.reset` among them. -/
theorem invariantHoldsAtReset : Obligations.InvariantHoldsAtReset where
  capture := captureInv_reset Config.default
  result := resultInv_reset Config.default

end Sys2Proof.Machine
end

section
/-! PROOFS. The host's procedure (spec/70_reset_and_hazards.md R148, spec/45_checksum_decode.md R127): an attempt from DETACHED
runs through the state after its DECODE, whose core the rest of the attempt reads and keeps. -/

namespace Sys2Proof.Machine

variable {c : CoreState} {s t : State} {line : List (List TWord)}

/-! ### The words of a whole attempt -/

/-- The READs of step 7 keep a detached core. -/
theorem performs_resultDelivery (code : BitVec 3) (hd : s.core.attached = false) (hl : EdgesOnly line) :
    ∃ t, performs (resultDelivery code line) s = .next t ∧ t.core = s.core := by
  obtain ⟨t, ht, -⟩ := performs_total (resultDelivery code line) s
  exact ⟨t, ht, performs_of_detached hd (isEdgeOrRead_resultDelivery hl) ht⟩

/-- A delivery of a whole attempt is run as its first words and then its READs. -/
theorem performs_attemptActions (p : HostParams) {code : BitVec 3} {u : State}
    (hu : performs (weave attemptWords line) s = .next u)
    (ht : performs (resultDelivery code (line.drop attemptWords.length)) u = .next t) :
    performs (weave (hostWords (attemptActions p code)) line ++
      (line.drop (hostWords (attemptActions p code)).length).flatten) s = .next t := by
  rw [weave_attemptActions, performs_append_andThen, hu, andThen_next, ht]

/-- Settles O56: every interleaving is a delivery; its run passes the state after DECODE, which is detached and unfaulted with an
outcome in RES_CODE, and the READs keep that core. -/
theorem attemptReadingNeverFaults : Obligations.AttemptReadingNeverFaults := by
  intro p code s edges ws hs hedges hi
  obtain ⟨line, rfl, rfl⟩ := exists_weave hi
  have hl : EdgesOnly line := (edgesOnly_iff_flatten line).2 hedges
  obtain ⟨u, o, hu, hd, hf, ho⟩ := performs_attemptWords hs hl
  obtain ⟨t, ht, hcore⟩ := performs_resultDelivery code hd (hl.drop _)
  refine ⟨t, performs_attemptActions p hu ht, ?_⟩
  rw [State.Safe, hcore, phase_eq_detached_iff, ho]
  exact ⟨hf, ⟨hf, hd⟩, o.code_ne_zero⟩

/-! ### The Result of the bytes read -/

theorem setWidth_violIndexByte (c : CoreState) : c.violIndexByte.setWidth 7 = c.violIndex := by
  have h : c.violIndexByte.toNat = 0 * 2 ^ 7 + c.violIndex.toNat := append_toNat 0#1 c.violIndex
  exact BitVec.eq_of_toNat_eq (by rw [BitVec.toNat_setWidth, h]; omega)

/-- The five bytes at 0x73 to 0x77 are the frame (R35). -/
theorem memRead_frame_all (c : CoreState) :
    #v[memRead c 0x73#8, memRead c 0x74#8, memRead c 0x75#8, memRead c 0x76#8, memRead c 0x77#8] = c.frame := by
  refine Vector.ext fun k hk => ?_
  interval_cases k
  exacts [memRead_frame c 0, memRead_frame c 1, memRead_frame c 2, memRead_frame c 3, memRead_frame c 4]

/-- R127's table read from the registers: each RES_CODE's Result, with the values of the registers that belong to it. -/
def CoreState.CarriesResult (c : CoreState) (r : ReadingResult) : Prop :=
  (c.resCode = 1#3 ∧ r = .ok c.frame) ∨ (c.resCode = 2#3 ∧ r = .timeout) ∨ (c.resCode = 3#3 ∧ r = .captureError) ∨
    (c.resCode = 4#3 ∧ r = .structuralViolation c.violIndex c.violMeas) ∨ (c.resCode = 5#3 ∧ r = .decodeInvalid) ∨
    (c.resCode = 6#3 ∧ r = .checksumMismatch)

/-- Where RES_CODE is an outcome's, the bytes that it requires give the Result that the registers carry. -/
theorem returned_carriesResult {o : Reading} (ho : c.resCode = o.code) :
    ∃ r, returned c.resCode ((resultAddresses c.resCode).map (memRead c)) = some r ∧ c.CarriesResult r := by
  rw [ho]
  cases o with
  | ok b => exact ⟨_, rfl, .inl ⟨ho, congrArg _ (memRead_frame_all c)⟩⟩
  | timeout => exact ⟨_, rfl, .inr (.inl ⟨ho, rfl⟩)⟩
  | captureError => exact ⟨_, rfl, .inr (.inr (.inl ⟨ho, rfl⟩))⟩
  | structViolation i m =>
    exact ⟨_, rfl, .inr (.inr (.inr (.inl ⟨ho, congrArg₂ _ (setWidth_violIndexByte c) (memRead_violMeas c)⟩)))⟩
  | decodeInvalid i m => exact ⟨_, rfl, .inr (.inr (.inr (.inr (.inl ⟨ho, rfl⟩))))⟩
  | checksumMismatch => exact ⟨_, rfl, .inr (.inr (.inr (.inr (.inr ⟨ho, rfl⟩))))⟩

/-- Settles O57: the READs see the core that DECODE left and keep it, so the bytes read give the Result that its registers carry;
the words performed are the delivery's. -/
theorem attemptReadingReturnsTheResult : Obligations.AttemptReadingReturnsTheResult := by
  intro p s line hs (hl : EdgesOnly line)
  obtain ⟨u, o, hu, hd, hf, ho⟩ := performs_attemptWords hs hl
  obtain ⟨t, ht, hcore⟩ := performs_resultDelivery u.core.resCode hd (hl.drop _)
  obtain ⟨r, hr, hcarries⟩ := returned_carriesResult ho
  refine ⟨t, r, ?_, ?_⟩
  · rw [attemptReading_eq, HostProc.run_acts, hostWords_attemptSteps, hu, andThen_next,
      run_readResult hd (hl.drop _), ht, andThen_next, hr]
  · rw [State.Safe, hcore, phase_eq_detached_iff]
    exact ⟨hf, ⟨hf, hd⟩, hcarries, _, interleave_weave _ _, performs_attemptActions p hu ht⟩

end Sys2Proof.Machine
end

section
/-! PROOFS. The span of a capture that validates (spec/70_reset_and_hazards.md R152): each pulse has a shortest and a longest
duration by its position, and their sums bound the span. -/

namespace Sys2Proof.Machine

/-- The shortest duration of pulse i that the default bands of Validate allow, above the default CAP_LO (R91, R97). -/
def shortestPulse (i : Fin 83) : Nat := if i.val = 0 then 11 else if i.val ≤ 2 then 65 else if i.val % 2 = 1 then 40 else 15

/-- The longest duration of pulse i that the default bands of Validate allow (R97). -/
def longestPulse (i : Fin 83) : Nat := if i.val = 0 then 50 else if i.val ≤ 2 then 95 else if i.val % 2 = 1 then 60 else 85

theorem sum_shortestPulse : ∑ i, shortestPulse i = 2341 := by decide

theorem sum_longestPulse : ∑ i, longestPulse i = 6040 := by decide

/-- A pulse above CAP_LO and in the band for its position is within its bounds. -/
theorem pulse_within_bounds {i : Fin 83} {v : Byte} (hok : pulseOk Config.default i.val v = true) (hcap : 10 < v.toNat) :
    shortestPulse i ≤ v.toNat ∧ v.toNat ≤ longestPulse i := by
  simp only [pulseOk_iff, Config.default] at hok
  unfold shortestPulse longestPulse
  split_ifs at hok ⊢ <;> omega

theorem sum_toList_eq_sum_univ (buf : PulseBuffer) : (buf.toList.map BitVec.toNat).sum = ∑ i : Fin 83, buf[i.val].toNat := by
  have hlist : buf.toList.map BitVec.toNat = List.ofFn fun i : Fin 83 => buf[i.val].toNat :=
    List.ext_getElem (by simp) (by simp only [List.getElem_map, Vector.getElem_toList, List.getElem_ofFn, implies_true])
  rw [hlist, List.sum_ofFn]

/-- Settles O52: each pulse is within the bounds for its position, and so is the sum. -/
theorem validCaptureSpan : Obligations.ValidCaptureSpan := by
  intro buf hpass hcap
  have hbounds (i : Fin 83) := pulse_within_bounds ((validate_eq_pass_iff _ _).1 hpass i) (hcap i).1
  rw [sum_toList_eq_sum_univ, ← sum_shortestPulse, ← sum_longestPulse]
  exact ⟨Finset.sum_le_sum fun i _ => (hbounds i).1, Finset.sum_le_sum fun i _ => (hbounds i).2⟩

end Sys2Proof.Machine
end
